-- ==== Sys2Proof/Word.lean ====
section
/-! DEFINITION. The widths of the block's data (00_scope.md R10, R12). -/

namespace Sys2Proof

/-- A host bus data word and a host-visible register (00_scope.md R10). -/
abbrev Word := BitVec 32

/-- A payload byte, a level, a received block operand (00_scope.md R17). -/
abbrev Byte := BitVec 8

/-- `haddr[11:2]`: the word address of a host access (20_memory.md R51). -/
abbrev WordAddr := BitVec 10

/-- `{hwrite, haddr[11:2]}`: the 11-bit code of a bus access (30_encoding.md R84). -/
abbrev BusCode := BitVec 11

/-- A bit string, its first bit at the head: the first in time order (00_scope.md R12). -/
abbrev Bits := List Bool

end Sys2Proof
end

