-- ==== Sys2Proof/Machine/Operands.lean ====
section
/-! DEFINITION. Bit strings, their packing into numbers, and the block operand of the codec commands. -/

namespace Sys2Proof.Machine

/-- `bits_N(v)`: the N-bit string `v[N-1] ... v[0]` (00_scope.md R14). -/
def bitsOf (n : Nat) (v : BitVec n) : Bits := (List.range n).map (fun i => v.getMsbD i)

/-- `pack(b1 ... bn)`: the first bit is the most significant (00_scope.md R14). -/
def pack (b : Bits) : Nat := b.foldl (fun acc x => 2 * acc + x.toNat) 0

/-- `b_i`, position i counted from 1 (00_scope.md R12). -/
def bitAt (b : Bits) (i : Nat) : Bool := b.getD (i - 1) false

/-- `b` with position i, counted from 1, inverted (41_hamming.md R130). -/
def flipAt (b : Bits) (i : Nat) : Bits := b.modify (i - 1) (fun x => !x)

/-- An HDEC or HCHK operand that is not a block of its size: XP = 0 and BLK[7] = 1 (30_encoding.md R87). -/
def badBlock (blk : Byte) (xp : Bool) : Bool := !xp && blk.getLsbD 7

/-- The received block: `bits_7(BLK[6:0])` if XP = 0, `bits_8(BLK)` if XP = 1 (41_hamming.md R136). -/
def blockOf (blk : Byte) (xp : Bool) : Bits := if xp then bitsOf 8 blk else bitsOf 7 (blk.extractLsb' 0 7)

end Sys2Proof.Machine
end

