-- ==== Sys2Proof/Machine/Hamming.lean ====
section
/-! DEFINITION. The Hamming codec as pure functions (41_hamming.md sections 1 to 3 and 5). -/

namespace Sys2Proof.Machine

/-- HamEncodeNibble (41_hamming.md R126): the block `p1 p2 d1 p4 d2 d3 d4`, and the overall-parity bit if `xp`. -/
def hamEncodeNibble (d1 d2 d3 d4 xp : Bool) : Bits :=
  let p1 := d1 ^^ d2 ^^ d4
  let p2 := d1 ^^ d3 ^^ d4
  let p4 := d2 ^^ d3 ^^ d4
  let blk := [p1, p2, d1, p4, d2, d3, d4]
  if xp then blk ++ [blk.foldl (· ^^ ·) false] else blk

/-- The block of a nibble field, `bits_4(NIB)` = d1 d2 d3 d4 with d1 = NIB[3] (41_hamming.md R133). -/
def hamEncodeField (nib : BitVec 4) (xp : Bool) : Bits :=
  hamEncodeNibble (nib.getLsbD 3) (nib.getLsbD 2) (nib.getLsbD 1) (nib.getLsbD 0) xp

/-- Strip (41_hamming.md R127): the data positions 3, 5, 6, 7. -/
def strip (b : Bits) : Bits := [bitAt b 3, bitAt b 5, bitAt b 6, bitAt b 7]

/-- Syndrome (41_hamming.md R128): the XOR of the positions 1 to 7 that hold a 1. -/
def syndrome (b : Bits) : BitVec 3 :=
  [1, 2, 3, 4, 5, 6, 7].foldl (fun s i => if bitAt b i then s ^^^ BitVec.ofNat 3 i else s) 0

/-- Q (41_hamming.md R129): the XOR of the 8 bits of an 8-bit block, 0 for a 7-bit block. -/
def overallParity (b : Bits) : Bool := if b.length = 8 then b.foldl (· ^^ ·) false else false

/-- The decode status (41_hamming.md R130, R131). -/
inductive DecodeStatus where
  | clean | corrected | uncorrectable
  deriving DecidableEq, Repr

/-- DST's code: clean = 0, corrected = 1, uncorrectable = 2 (41_hamming.md R137). -/
def DecodeStatus.code : DecodeStatus → BitVec 2
  | .clean => 0 | .corrected => 1 | .uncorrectable => 2

/-- The worse of two statuses: uncorrectable over corrected over clean (41_hamming.md R142). -/
def DecodeStatus.worse : DecodeStatus → DecodeStatus → DecodeStatus
  | .uncorrectable, _ => .uncorrectable
  | _, .uncorrectable => .uncorrectable
  | .corrected, _ => .corrected
  | _, .corrected => .corrected
  | .clean, .clean => .clean

/-- What a block decodes to: data, syndrome, overall parity, status (41_hamming.md R130, R131). -/
structure Decoded where
  data : Bits
  syn : BitVec 3
  q : Bool
  dst : DecodeStatus
  deriving DecidableEq, Repr

/-- HamDecode7 (41_hamming.md R130): the flip is made in the received block, which is then stripped. -/
def hamDecode7 (b : Bits) : Decoded :=
  let s := syndrome b
  let c := if s ≠ 0 then flipAt b s.toNat else b
  { data := strip c, syn := s, q := false, dst := if s = 0 then .clean else .corrected }

/-- HamDecode8 (41_hamming.md R131): the single-error-correcting, double-error-detecting table on (s, q). -/
def hamDecode8 (b : Bits) : Decoded :=
  let s := syndrome b
  let q := overallParity b
  match decide (s = 0), q with
  | true, false => { data := strip b, syn := s, q := q, dst := .clean }
  | false, true => { data := strip (flipAt b s.toNat), syn := s, q := q, dst := .corrected }
  | true, true => { data := strip b, syn := s, q := q, dst := .corrected }
  | false, false => { data := strip b, syn := s, q := q, dst := .uncorrectable }

/-- HamDecode8 if `xp`, else HamDecode7 (41_hamming.md R137). -/
def hamDecode (b : Bits) (xp : Bool) : Decoded := if xp then hamDecode8 b else hamDecode7 b

/-- HamCheck (41_hamming.md R132): true iff the block is not a codeword. -/
def hamCheck (b : Bits) (xp : Bool) : Bool := decide (syndrome b ≠ 0) || (xp && overallParity b)

/-! ### Stream forms -/

/-- HamEncodeStream (41_hamming.md R141); none is the failure InvalidInput. -/
def hamEncodeStream : Bits → Bool → Option Bits
  | [], _ => some []
  | d1 :: d2 :: d3 :: d4 :: x, xp =>
    match hamEncodeStream x xp with
    | some y => some (hamEncodeNibble d1 d2 d3 d4 xp ++ y)
    | none => none
  | [_], _ => none
  | [_, _], _ => none
  | [_, _, _], _ => none

/-- The first `m` consecutive blocks of `n` bits. -/
def cutBlocks (n : Nat) : Nat → Bits → List Bits
  | 0, _ => []
  | m + 1, y => y.take n :: cutBlocks n m (y.drop n)

/-- The cut of a received string into whole blocks of 7 + xp bits; none is InvalidInput (41_hamming.md R142). -/
def blocksOf (y : Bits) (xp : Bool) : Option (List Bits) :=
  let n := 7 + xp.toNat
  if y.length % n = 0 then some (cutBlocks n (y.length / n) y) else none

/-- HamDecodeStream (41_hamming.md R142): the data in order, and the worst status. -/
def hamDecodeStream (y : Bits) (xp : Bool) : Option (Bits × DecodeStatus) :=
  match blocksOf y xp with
  | some bs =>
    let ds := bs.map (fun b => hamDecode b xp)
    some ((ds.map Decoded.data).flatten, (ds.map Decoded.dst).foldr DecodeStatus.worse .clean)
  | none => none

/-- HamCheckStream (41_hamming.md R143). -/
def hamCheckStream (y : Bits) (xp : Bool) : Option Bool :=
  match blocksOf y xp with
  | some bs => some (bs.any (fun b => hamCheck b xp))
  | none => none

end Sys2Proof.Machine
end

