-- ==== Sys2Proof/Config.lean ====
section
/-! DEFINITION. The implementation parameters (00_scope.md R9) and the free values: the constants without a body
that stand for what the spec leaves to a draw. Nothing can be proved of a free value, so a statement holds whatever
it is. -/

namespace Sys2Proof

/-- The parameters a build of the block fixes (00_scope.md R9). They are held in State.params, which nothing writes, so
that a statement over all states is a statement over all builds (DESIGN CHOICE, log 5). -/
structure Params where
  /-- `N_BUF`: capacity of the payload buffer in bytes. -/
  nBuf : Nat
  /-- `TICK_HZ`: ticks per second of the time base. -/
  tickHz : Nat
  deriving DecidableEq, Repr

/-- The defaults of 00_scope.md R9. -/
def Params.default : Params := { nBuf := 256, tickHz := 1000 }

/-- The legal values of 00_scope.md R9. -/
abbrev Params.Legal (p : Params) : Prop :=
  1 ≤ p.nBuf ∧ p.nBuf ≤ 768 ∧ 1 ≤ p.tickHz ∧ p.tickHz ≤ 2 ^ 32 - 1

/-- FREE VALUE (20_memory.md R63; log 3). What PAYLOAD[k] reads as when it was not written since power-up: the first
argument is the tick's draw number, the second is k, so that each read is a draw of its own. -/
opaque Config.unwrittenByte : Nat → Nat → Byte

/-- FREE VALUE (44_scheduler.md R185; log 2). `ev_ready` in the tick of this draw number, where State.sink lists no
value for the tick. -/
opaque Config.evReady : Nat → Bool

/-- FREE VALUE (44_scheduler.md R185; log 2). `sink_err`, likewise. -/
opaque Config.sinkErr : Nat → Bool

end Sys2Proof
end

