-- ==== Sys2Proof/Syntax.lean ====
section
/-! DEFINITION. The instructions of the block: one constructor for each row of spec/opcode_table.json. -/

namespace Sys2Proof

/-- The command words (30_encoding.md R83) and the host bus accesses (R84) of the NIIP-TX command set. -/
inductive Instr where
  /-- NOP (40_commands.md R112). -/
  | nop
  /-- START (44_scheduler.md R187). -/
  | start
  /-- CANCEL (44_scheduler.md R200). -/
  | cancel
  /-- HENC: the nibble NIB and the flag XP (41_hamming.md R133). -/
  | henc (nib : BitVec 4) (xp : Bool)
  /-- HDEC: the received block BLK and the flag XP (41_hamming.md R137). -/
  | hdec (blk : Byte) (xp : Bool)
  /-- HCHK: the received block BLK and the flag XP (41_hamming.md R140). -/
  | hchk (blk : Byte) (xp : Bool)
  /-- RD: a read of the word address `addr` (20_memory.md R55). -/
  | rd (addr : WordAddr)
  /-- WR_CMD: a write of the command word `w` to CMD (20_memory.md R56, 40_commands.md R110). -/
  | wrCmd (w : Word)
  /-- WR_CONFIG: a write to CONFIG (20_memory.md R59). -/
  | wrConfig (v : Word)
  /-- WR_BPS: a write to BPS (20_memory.md R60). -/
  | wrBps (v : Word)
  /-- WR_LEN: a write to LEN (20_memory.md R61). -/
  | wrLen (v : Word)
  /-- WR_PAYLOAD: a write to PAYLOAD[k] (20_memory.md R62). -/
  | wrPayload (k : BitVec 10) (v : Word)
  /-- WR_IGNORED: a write to a read-only or unmapped word address (20_memory.md R58). -/
  | wrIgnored (addr : WordAddr) (v : Word)
  deriving DecidableEq, Repr

end Sys2Proof
end

