-- ==== Sys2Proof/Decode.lean ====
section
/-! DEFINITION. Decoding and encoding. The block has two code spaces: the 32-bit command words written to CMD
(30_encoding.md R80 to R89) and the 11-bit bus codes with their data word (R84). Each has a decoder, total on every
word, and an encoder written from the same tables. -/

namespace Sys2Proof

/-! ### Addresses (10_state.md R22, 20_memory.md R52); a word address is the byte address over 4 -/

/-- CMD, byte address 0x000. -/
def addrCmd : WordAddr := 0x000
/-- STATUS, byte address 0x004. -/
def addrStatus : WordAddr := 0x001
/-- CONFIG, byte address 0x008. -/
def addrConfig : WordAddr := 0x002
/-- BPS, byte address 0x00C. -/
def addrBps : WordAddr := 0x003
/-- LEN, byte address 0x010. -/
def addrLen : WordAddr := 0x004
/-- INDEX, byte address 0x014. -/
def addrIndex : WordAddr := 0x005
/-- TOTAL, byte address 0x018. -/
def addrTotal : WordAddr := 0x006
/-- PERIOD, byte address 0x01C. -/
def addrPeriod : WordAddr := 0x007
/-- CODEC_RES, byte address 0x020. -/
def addrCodecRes : WordAddr := 0x008
/-- LEVEL, byte address 0x024. -/
def addrLevel : WordAddr := 0x009
/-- PAYLOAD[0], byte address 0x400. -/
def addrPayload : WordAddr := 0x100

/-- The word address is that of some PAYLOAD[k] with k < N_BUF (20_memory.md R52). -/
def isPayloadAddr (nBuf : Nat) (a : WordAddr) : Bool :=
  decide (addrPayload.toNat ≤ a.toNat ∧ a.toNat - addrPayload.toNat < nBuf)

/-- The word address is that of CMD or of a read/write register: the writes that set ERR (60_exceptions.md R221). -/
def isWritable (nBuf : Nat) (a : WordAddr) : Bool :=
  a == addrCmd || a == addrConfig || a == addrBps || a == addrLen || isPayloadAddr nBuf a

/-! ### Command words -/

/-- The rows of the opcode map (30_encoding.md R83). -/
inductive CmdRow where
  | nop | start | cancel | henc | hdec | hchk
  deriving DecidableEq, Repr

/-- The rows in the order of 30_encoding.md R83. -/
def cmdRows : List CmdRow := [.nop, .start, .cancel, .henc, .hdec, .hchk]

/-- The opcode OP of the row (30_encoding.md R83). -/
def CmdRow.opcode : CmdRow → Byte
  | .nop => 0x00 | .start => 0x01 | .cancel => 0x02 | .henc => 0x10 | .hdec => 0x11 | .hchk => 0x12

/-- The column `match` of 30_encoding.md R83. -/
def CmdRow.pattern : CmdRow → Word
  | .nop => 0x00000000 | .start => 0x00000001 | .cancel => 0x00000002
  | .henc => 0x00000010 | .hdec => 0x00000011 | .hchk => 0x00000012

/-- The column `mask` of 30_encoding.md R83: the opcode and every reserved-zero bit. -/
def CmdRow.mask : CmdRow → Word
  | .nop => 0xFFFFFFFF | .start => 0xFFFFFFFF | .cancel => 0xFFFFFFFF
  | .henc => 0xFFFEF0FF | .hdec => 0xFFFE00FF | .hchk => 0xFFFE00FF

/-- A word selects a row iff `(w & mask) == match` (30_encoding.md R83). -/
def CmdRow.selects (r : CmdRow) (w : Word) : Bool := (w &&& r.mask) == r.pattern

/-- `OP = w[7:0]` (30_encoding.md R82). -/
def opcodeOf (w : Word) : Byte := w.extractLsb' 0 8
/-- `NIB = w[11:8]` (30_encoding.md R82). -/
def nibOf (w : Word) : BitVec 4 := w.extractLsb' 8 4
/-- `BLK = w[15:8]` (30_encoding.md R82). -/
def blkOf (w : Word) : Byte := w.extractLsb' 8 8
/-- `XP = w[16]` (30_encoding.md R82). -/
def xpOf (w : Word) : Bool := w.getLsbD 16

/-- What the command decoder answers: a row, or one of the two ways a word is `InvalidCommand`. -/
inductive CmdDecode where
  | row (r : CmdRow)
  /-- The opcode is in no row (30_encoding.md R85). -/
  | reservedOpcode
  /-- The opcode is in a row and a reserved-zero bit of its format is 1 (30_encoding.md R86). -/
  | reservedBits
  deriving DecidableEq, Repr

/-- The command decoder, total on 32-bit words (30_encoding.md R89). -/
def decodeRow (w : Word) : CmdDecode :=
  match cmdRows.find? (fun r => r.selects w) with
  | some r => .row r
  | none => if cmdRows.any (fun r => r.opcode == opcodeOf w) then .reservedBits else .reservedOpcode

/-- The instruction of a row, its operands taken from the word (30_encoding.md R82). -/
def CmdRow.instr (w : Word) : CmdRow → Instr
  | .nop => .nop
  | .start => .start
  | .cancel => .cancel
  | .henc => .henc (nibOf w) (xpOf w)
  | .hdec => .hdec (blkOf w) (xpOf w)
  | .hchk => .hchk (blkOf w) (xpOf w)

/-- The command a word names; none where the word is `InvalidCommand` (30_encoding.md R89). -/
def decodeCommand (w : Word) : Option Instr :=
  match decodeRow w with
  | .row r => some (r.instr w)
  | .reservedOpcode => none
  | .reservedBits => none

/-- Format F0: OP alone, [31:8] reserved-zero (30_encoding.md R81). -/
def formatF0 (op : Byte) : Word := op.setWidth 32
/-- Format FE: `OP | (NIB << 8) | (XP << 16)`, the rest reserved-zero (30_encoding.md R81, R96). -/
def formatFE (op : Byte) (nib : BitVec 4) (xp : Bool) : Word :=
  op.setWidth 32 ||| nib.setWidth 32 <<< 8 ||| (BitVec.ofBool xp).setWidth 32 <<< 16
/-- Format FB: `OP | (BLK << 8) | (XP << 16)`, the rest reserved-zero (30_encoding.md R81, R96). -/
def formatFB (op : Byte) (blk : Byte) (xp : Bool) : Word :=
  op.setWidth 32 ||| blk.setWidth 32 <<< 8 ||| (BitVec.ofBool xp).setWidth 32 <<< 16

/-! ### Bus accesses -/

/-- `hwrite`, bit 10 of the bus code (30_encoding.md R84). -/
def hwriteOf (code : BusCode) : Bool := code.getLsbD 10
/-- `haddr[11:2]`, bits [9:0] of the bus code (30_encoding.md R84). -/
def haddrOf (code : BusCode) : WordAddr := code.extractLsb' 0 10
/-- `{hwrite, haddr[11:2]}` (30_encoding.md R84). -/
def busCode (hwrite : Bool) (haddr : WordAddr) : BusCode := BitVec.ofBool hwrite ++ haddr

/-- The access a bus code and its data word name, for a buffer of `nBuf` bytes: the specific write rows first, then
WR_IGNORED (20_memory.md R55, R56; 30_encoding.md R84). -/
def decodeBus (nBuf : Nat) (code : BusCode) (wdata : Word) : Instr :=
  let a := haddrOf code
  if hwriteOf code = false then .rd a
  else if a = addrCmd then .wrCmd wdata
  else if a = addrConfig then .wrConfig wdata
  else if a = addrBps then .wrBps wdata
  else if a = addrLen then .wrLen wdata
  else if isPayloadAddr nBuf a then .wrPayload (a - addrPayload) wdata
  else .wrIgnored a wdata

/-! ### Both spaces together -/

/-- The bits of an instruction: a command word, or a bus code with its data word. -/
inductive Encoding where
  | command (w : Word)
  | bus (code : BusCode) (wdata : Word)
  deriving DecidableEq, Repr

/-- Decoding, total: none only for a command word that is `InvalidCommand`. -/
def decode (nBuf : Nat) : Encoding → Option Instr
  | .command w => decodeCommand w
  | .bus code wdata => some (decodeBus nBuf code wdata)

/-- The encoding of an instruction (30_encoding.md R81, R84, R96). A read's data word is 0: the bus carries none. -/
def encode : Instr → Encoding
  | .nop => .command (formatF0 0x00)
  | .start => .command (formatF0 0x01)
  | .cancel => .command (formatF0 0x02)
  | .henc nib xp => .command (formatFE 0x10 nib xp)
  | .hdec blk xp => .command (formatFB 0x11 blk xp)
  | .hchk blk xp => .command (formatFB 0x12 blk xp)
  | .rd a => .bus (busCode false a) 0
  | .wrCmd w => .bus (busCode true addrCmd) w
  | .wrConfig v => .bus (busCode true addrConfig) v
  | .wrBps v => .bus (busCode true addrBps) v
  | .wrLen v => .bus (busCode true addrLen) v
  | .wrPayload k v => .bus (busCode true (addrPayload + k)) v
  | .wrIgnored a v => .bus (busCode true a) v

/-- The encoding whose bits spec/opcode_table.json numbers `w` in a row of `nbits` bits: a 32-bit row is a command
word, a shorter row is an 11-bit bus code whose data word (to which the table gives no bits) is 0. None where `w` has a
bit outside the row. -/
def tableEncoding (nbits w : Nat) : Option Encoding :=
  if 32 ≤ nbits then
    if w < 2 ^ 32 then some (.command (BitVec.ofNat 32 w)) else none
  else
    if w < 2 ^ 11 then some (.bus (BitVec.ofNat 11 w) 0) else none

/-- The instruction this decoder reads from a word of spec/opcode_table.json, for the default N_BUF (the one the table's
WR_PAYLOAD row is printed for). -/
def decodeTableWord (nbits w : Nat) : Option Instr :=
  match tableEncoding nbits w with
  | some e => decode Params.default.nBuf e
  | none => none

end Sys2Proof
end

