-- ==== Sys2Proof/Machine/State.lean ====
section
/-! DEFINITION. The state of the block as plain data (10_state.md), the reasons a step can stop, and the state after
reset (10_state.md R43). -/

namespace Sys2Proof.Machine

/-- STATUS.STATE (10_state.md R25). -/
inductive Sched where
  | idle | running | done
  deriving DecidableEq, Repr

/-- STATUS.ERR (10_state.md R26). -/
inductive ErrCode where
  | ok | invalidInput | invalidConfig | transmissionInProgress | invalidCommand
  deriving DecidableEq, Repr

/-- PHASE (10_state.md R32). -/
inductive Phase where
  | offer | wait
  deriving DecidableEq, Repr

/-- An element of LEVELS: a level and its clock bit (10_state.md R32). -/
structure Level where
  level : Byte
  clk : Bool
  deriving DecidableEq, Repr

/-- The event record of one emission (10_state.md R39): INDEX before the emission, level, clk, NOW. -/
structure Event where
  index : Word
  level : Byte
  clk : Bool
  now : Nat
  deriving DecidableEq, Repr

/-- The host's and the reset input of one tick (10_state.md R40, 20_memory.md R51). -/
structure HostIn where
  rst : Bool
  hsel : Bool
  hwrite : Bool
  haddr : WordAddr
  hwdata : Word
  deriving DecidableEq, Repr

/-- The sink's inputs of one tick (10_state.md R40, 44_scheduler.md R185). -/
structure SinkIn where
  evReady : Bool
  sinkErr : Bool
  deriving DecidableEq, Repr

/-- The PAYLOAD bytes written since power-up, as (byte address, byte), addresses strictly rising; an address that is
not listed holds an unspecified value (20_memory.md R63). -/
abbrev Memory := List Host.Cell

structure State where
  /-- The configuration N_BUF, TICK_HZ; nothing writes it (00_scope.md R9; log 5). -/
  params : Params
  /-- STATUS.STATE (10_state.md R25). -/
  sched : Sched
  /-- STATUS.ERR (10_state.md R26). -/
  err : ErrCode
  /-- STATUS.SINK_ERR (10_state.md R27). -/
  sinkErr : Bool
  /-- STATUS.CANCELLED (10_state.md R27). -/
  cancelled : Bool
  /-- CONFIG[4:0]; the other bits read 0 (10_state.md R28). -/
  config : BitVec 5
  /-- BPS (10_state.md R29). -/
  bps : Word
  /-- LEN (10_state.md R30). -/
  len : Word
  /-- INDEX (10_state.md R33). -/
  index : Word
  /-- TOTAL (10_state.md R34). -/
  total : Word
  /-- PERIOD (10_state.md R35). -/
  period : Word
  /-- CODEC_RES (10_state.md R36). -/
  codecRes : Word
  /-- The port lvl_out (10_state.md R39), mirrored in LEVEL[7:0] (R37). -/
  lvlOut : Byte
  /-- The port clk_out (10_state.md R39), mirrored in LEVEL[8] (R37). -/
  clkOut : Bool
  /-- PAYLOAD (10_state.md R38). -/
  payload : Memory
  /-- NOW (10_state.md R31), below 2^64 (70_reset_and_hazards.md R266; log 6). -/
  now : Nat
  /-- LEVELS (10_state.md R32). -/
  levels : List Level
  /-- PHASE (10_state.md R32). -/
  phase : Phase
  /-- DUE (10_state.md R32; log 6). -/
  due : Nat
  /-- LAST (10_state.md R32; log 6). -/
  last : Nat
  /-- HAVE_LAST (10_state.md R32). -/
  haveLast : Bool
  /-- The port ev_valid as driven in the last tick (10_state.md R39; log 8). -/
  evValid : Bool
  /-- The port ev_level, likewise. -/
  evLevel : Byte
  /-- The port ev_clk, likewise. -/
  evClk : Bool
  /-- The port ev_fire, likewise. -/
  evFire : Bool
  /-- The event of the last tick's emission, if it had one (10_state.md R39; log 8). -/
  event : Option Event
  /-- The word the last tick's host read returned, if it had one (20_memory.md R51; log 7). -/
  hrdata : Option Word
  /-- The inputs of the host for the coming ticks, the next tick's first; where the list has ended the host makes no
  access (log 1). -/
  host : List HostIn
  /-- The inputs of the sink for the coming ticks, the next tick's first; where the list has ended they are free values
  (log 2). -/
  sink : List SinkIn
  /-- The MODEL's own counter of ticks since power-up: the number of the tick's free values (log 10). -/
  draws : Nat
  deriving DecidableEq, Repr

/-- Why a step stops with a fault. -/
inductive Fault where
  /-- The engine offers LEVELS[INDEX] and LEVELS has no such element (44_scheduler.md R190 gives no effect). Raised by
  `engineStep`, only in states no run reaches (log 11). SAFE. -/
  | levelIndexOutOfRange
  deriving DecidableEq, Repr

/-- Why a step is refused. -/
inductive Refusal where
  /-- The instruction has no meaning in the model. Raised by no arm: every instruction has its meaning. SAFE. -/
  | notModelled (mnemonic : String)
  /-- NOW has reached 2^64 - 1: 'a model that reaches NOW = 2^64 - 1 refuses the run' (10_state.md R31; log 6). Raised
  by `tick` where rst = 0. SAFE. -/
  | timeExhausted
  deriving DecidableEq, Repr

/-- What a meaning and a step answer. -/
abbrev Result := Host.Outcome State Fault Refusal

/-- The machine right after a power-up reset, built with the parameters `p` (10_state.md R43). -/
def State.resetWith (p : Params) : State where
  params := p
  sched := .idle
  err := .ok
  sinkErr := false
  cancelled := false
  config := 0
  bps := 0
  len := 0
  index := 0
  total := 0
  period := 0
  codecRes := 0
  lvlOut := 0
  clkOut := false
  payload := []
  now := 0
  levels := []
  phase := .wait
  due := 0
  last := 0
  haveLast := false
  evValid := false
  evLevel := 0
  evClk := false
  evFire := false
  event := none
  hrdata := none
  host := []
  sink := []
  draws := 0

/-- The machine right after reset (10_state.md R43), with the default parameters (00_scope.md R9). -/
def State.reset : State := State.resetWith Params.default

end Sys2Proof.Machine
end

