-- ==== Sys2Proof/Machine/Flags.lean ====
section
/-! DEFINITION. The field layouts of the host-visible registers, and the codes of their fields. -/

namespace Sys2Proof.Machine

/-- STATE's code: 0 Idle, 1 Running, 2 Done (10_state.md R25). -/
def Sched.code : Sched → BitVec 2
  | .idle => 0 | .running => 1 | .done => 2

/-- ERR's code (10_state.md R26, 30_encoding.md R94). -/
def ErrCode.code : ErrCode → BitVec 4
  | .ok => 0 | .invalidInput => 1 | .invalidConfig => 2 | .transmissionInProgress => 3 | .invalidCommand => 4

/-- STATUS (10_state.md R24): `{22'b0, CANCELLED, SINK_ERR, ERR[3:0], 2'b0, STATE[1:0]}` (20_memory.md R55). -/
def statusWord (s : State) : Word :=
  0#22 ++ BitVec.ofBool s.cancelled ++ BitVec.ofBool s.sinkErr ++ s.err.code ++ 0#2 ++ s.sched.code

/-- LEVEL (10_state.md R37): `{23'b0, clk_out, lvl_out[7:0]}` (20_memory.md R55). -/
def levelWord (s : State) : Word := 0#23 ++ BitVec.ofBool s.clkOut ++ s.lvlOut

/-- CONFIG as it is read: `zext_32(CONFIG[4:0])` (20_memory.md R55). -/
def configWord (s : State) : Word := 0#27 ++ s.config

/-- CONFIG.MODE, bits [2:0] (10_state.md R28). -/
def State.modeField (s : State) : BitVec 3 := s.config.extractLsb' 0 3
/-- CONFIG.HAM_EN, bit [3] (10_state.md R28). -/
def State.hamEn (s : State) : Bool := s.config.getLsbD 3
/-- CONFIG.XPAR_EN, bit [4] (10_state.md R28). -/
def State.xparEn (s : State) : Bool := s.config.getLsbD 4

/-- CODEC_RES from its fields XP [16], CHK [15], DST [14:13], QERR [12], SYN [11:8], DATA [7:0] (10_state.md R36). -/
def codecWord (xp chk : Bool) (dst : BitVec 2) (qerr : Bool) (syn : BitVec 4) (data : Byte) : Word :=
  0#15 ++ BitVec.ofBool xp ++ BitVec.ofBool chk ++ dst ++ BitVec.ofBool qerr ++ syn ++ data

/-- The port `busy`: 1 while STATE = Running (10_state.md R39). -/
def State.busy (s : State) : Bool := s.sched == .running

end Sys2Proof.Machine
end

