-- ==== Sys2Proof/Machine/Ops.lean ====
section
/-! DEFINITION. The named operations over the state and over the payload buffer, from which every meaning is made. -/

namespace Sys2Proof.Machine

/-! ### Memory -/

/-- The byte listed at an address. -/
def Memory.get? : Memory → Nat → Option Byte
  | [], _ => none
  | (b, v) :: m, a => if b = a then some v else Memory.get? m a

/-- Lists the byte `v` at the address `a`, keeping the addresses rising. -/
def Memory.put : Memory → Nat → Byte → Memory
  | [], a, v => [(a, v)]
  | (b, x) :: m, a, v =>
    if a < b then (a, v) :: (b, x) :: m
    else if a = b then (a, v) :: m
    else (b, x) :: Memory.put m a v

/-- The canonical form: addresses strictly rising (log 3 says why a listed byte has no value it may not have). -/
def Memory.wf : Memory → Bool
  | [] => true
  | [_] => true
  | (a, _) :: (b, y) :: m => decide (a < b) && Memory.wf ((b, y) :: m)

/-- The byte address of PAYLOAD[k] (10_state.md R22, R38). -/
def payloadAddr (k : Nat) : Nat := 0x400 + 4 * k

/-- The byte PAYLOAD[k] if it was written since power-up. -/
def State.written? (s : State) (k : Nat) : Option Byte := s.payload.get? (payloadAddr k)

/-- What a read of PAYLOAD[k] gives: the byte written, or this tick's draw (20_memory.md R63; log 3). -/
def State.readPayload (s : State) (k : Nat) : Byte :=
  match s.written? k with
  | some v => v
  | none => Config.unwrittenByte s.draws k

/-! ### Updates, one name each -/

/-- `ERR <- e`. -/
def State.setErr (s : State) (e : ErrCode) : State := { s with err := e }
/-- `CONFIG <- v`, the five kept bits. -/
def State.setConfig (s : State) (v : BitVec 5) : State := { s with config := v }
/-- `BPS <- v`. -/
def State.setBps (s : State) (v : Word) : State := { s with bps := v }
/-- `LEN <- v`. -/
def State.setLen (s : State) (v : Word) : State := { s with len := v }
/-- `PAYLOAD[k] <- v` (20_memory.md R62). -/
def State.setPayload (s : State) (k : Nat) (v : Byte) : State :=
  { s with payload := s.payload.put (payloadAddr k) v }
/-- `CODEC_RES <- v`. -/
def State.setCodecRes (s : State) (v : Word) : State := { s with codecRes := v }
/-- `hrdata` in the tick of a read (20_memory.md R51). -/
def State.setHrdata (s : State) (v : Word) : State := { s with hrdata := some v }

/-- The writes of an accepted START but for ERR (44_scheduler.md R187). -/
def State.beginTransmission (s : State) (levels : List Level) (period : Word) : State :=
  { s with
    levels := levels, total := BitVec.ofNat 32 levels.length, period := period
    index := 0, haveLast := false, phase := .offer
    sinkErr := false, cancelled := false, sched := .running }

/-- The writes of a CANCEL while Running but for ERR (44_scheduler.md R200). -/
def State.cancelTransmission (s : State) : State := { s with sched := .done, cancelled := true }

/-- The ports of a tick in which the engine offers nothing (10_state.md R39, 44_scheduler.md R191). -/
def State.quietPorts (s : State) : State :=
  { s with evValid := false, evLevel := 0, evClk := false, evFire := false, event := none }

/-- A level offered and not accepted: PHASE <- OFFER and the ports of the offer (44_scheduler.md R190, R191). -/
def State.offerLevel (s : State) (l : Level) : State :=
  { s with
    phase := .offer, evValid := true, evLevel := l.level, evClk := l.clk, evFire := false, event := none }

/-- An emission of the level `l` whose compensated delay is `d`, with this tick's `sink_err` (44_scheduler.md R190,
R192, R196). -/
def State.emitLevel (s : State) (l : Level) (sinkErr : Bool) (d : Nat) : State :=
  { s with
    lvlOut := l.level, clkOut := l.clk
    evValid := true, evLevel := l.level, evClk := l.clk, evFire := true
    event := some { index := s.index, level := l.level, clk := l.clk, now := s.now }
    sinkErr := s.sinkErr || sinkErr
    last := s.now, haveLast := true
    index := s.index + 1, due := s.now + max d 1, phase := .wait }

/-- Completion: STATE <- Done (44_scheduler.md R197). -/
def State.finishTransmission (s : State) : State := { s with sched := .done }

/-- NOW <- NOW + 1 (70_reset_and_hazards.md R253); the next tick's free values are draws of their own (log 10). -/
def State.advanceNow (s : State) : State := { s with now := s.now + 1, draws := s.draws + 1 }

/-- The start of a tick: its inputs leave the lists of the coming ticks, and `hrdata` is not yet driven (log 1, 2, 7). -/
def State.takeInputs (s : State) : State :=
  { s with host := s.host.tail, sink := s.sink.tail, hrdata := none }

/-- Reset (70_reset_and_hazards.md R250): every element takes its value of 10_state.md R43; PAYLOAD keeps what it held
(log 4); the parameters and what lies outside the block (the coming inputs, the draws) are no element of it. The next
tick's free values are draws of their own (log 10). -/
def State.hardReset (s : State) : State :=
  { State.resetWith s.params with payload := s.payload, host := s.host, sink := s.sink, draws := s.draws + 1 }

/-! ### Host accesses -/

/-- `reject(code)`: ERR <- code and no other effect (00_scope.md R15, 40_commands.md R111). The block's one error
mechanism: it has no trap entry (60_exceptions.md R230). -/
def reject (e : ErrCode) (s : State) : Result := .next (s.setErr e)

/-- The end of an accepted write: ERR <- OK (60_exceptions.md R221). -/
def accept (s : State) : Result := .next (s.setErr .ok)

/-- A write to CONFIG, BPS, LEN or PAYLOAD[k]: refused while Running, else the write and ERR <- OK (20_memory.md R56,
R57). -/
def lockedWrite (write : State → State) (s : State) : Result :=
  if s.sched = .running then reject .transmissionInProgress s else accept (write s)

/-- `RegRead(a)` (20_memory.md R55), `a` the word address. -/
def regRead (s : State) (a : WordAddr) : Word :=
  if a = addrStatus then statusWord s
  else if a = addrConfig then configWord s
  else if a = addrBps then s.bps
  else if a = addrLen then s.len
  else if a = addrIndex then s.index
  else if a = addrTotal then s.total
  else if a = addrPeriod then s.period
  else if a = addrCodecRes then s.codecRes
  else if a = addrLevel then levelWord s
  else if isPayloadAddr s.params.nBuf a then
    0#24 ++ s.readPayload (a.toNat - addrPayload.toNat)
  else 0

end Sys2Proof.Machine
end

