-- ==== Sys2Proof/Machine/Codec.lean ====
section
/-! DEFINITION. The meanings of the codec commands HENC, HDEC and HCHK (41_hamming.md section 4). -/

namespace Sys2Proof.Machine

/-- CODEC_RES of HENC: DATA = pack(blk), XP; the other fields 0 (41_hamming.md R133). -/
def hencWord (nib : BitVec 4) (xp : Bool) : Word :=
  codecWord xp false 0 false 0 (BitVec.ofNat 8 (pack (hamEncodeField nib xp)))

/-- CODEC_RES of HDEC (41_hamming.md R137). -/
def hdecWord (blk : Byte) (xp : Bool) : Word :=
  let b := blockOf blk xp
  let r := hamDecode b xp
  codecWord xp (hamCheck b xp) r.dst.code r.q (0#1 ++ r.syn) (0#4 ++ BitVec.ofNat 4 (pack r.data))

/-- CODEC_RES of HCHK (41_hamming.md R140). -/
def hchkWord (blk : Byte) (xp : Bool) : Word :=
  let b := blockOf blk xp
  codecWord xp (hamCheck b xp) 0 (overallParity b) (0#1 ++ syndrome b) 0

/-- A codec command on a block operand: InvalidInput on a bad operand, else its word to CODEC_RES (30_encoding.md R87,
41_hamming.md R137, R140). -/
def blockCommand (result : Byte → Bool → Word) (blk : Byte) (xp : Bool) (s : State) : Result :=
  if badBlock blk xp then reject .invalidInput s else accept (s.setCodecRes (result blk xp))

/-- HENC (41_hamming.md R133). -/
def execHenc (nib : BitVec 4) (xp : Bool) (s : State) : Result := accept (s.setCodecRes (hencWord nib xp))

/-- HDEC (41_hamming.md R137). -/
def execHdec (blk : Byte) (xp : Bool) (s : State) : Result := blockCommand hdecWord blk xp s

/-- HCHK (41_hamming.md R140). -/
def execHchk (blk : Byte) (xp : Bool) (s : State) : Result := blockCommand hchkWord blk xp s

end Sys2Proof.Machine
end

