-- ==== Sys2Proof/Machine/Frame.lean ====
section
/-! DEFINITION. The frame builder (42_frame.md). -/

namespace Sys2Proof.Machine

/-- The start marker `11110011` (42_frame.md R154). -/
def startMarker : Bits := [true, true, true, true, false, false, true, true]

/-- The stop marker `00001010` (42_frame.md R155). -/
def stopMarker : Bits := [false, false, false, false, true, false, true, false]

/-- The reset bit `1` (42_frame.md R160). -/
def resetBit : Bits := [true]

/-- RawBits: each byte most significant bit first, in rising index (42_frame.md R151). -/
def rawBits (bytes : List Byte) : Bits := (bytes.map (bitsOf 8)).flatten

/-- The stream of the encoder, one block after another, on the nibbles of the payload (42_frame.md R152). The stream's
failure cannot occur: the length is a multiple of 4 (R156). -/
def payloadBits (bytes : List Byte) (hamEn xparEn : Bool) : Bits :=
  if hamEn then (hamEncodeStream (rawBits bytes) xparEn).getD [] else rawBits bytes

/-- FrameBits (42_frame.md R153). -/
def frameBits (bytes : List Byte) (hamEn xparEn : Bool) : Bits :=
  startMarker ++ payloadBits bytes hamEn xparEn ++ stopMarker ++ resetBit

end Sys2Proof.Machine
end

