-- ==== Sys2Proof/Machine/Modulator.lean ====
section
/-! DEFINITION. The symbol modulator (43_modulator.md). -/

namespace Sys2Proof.Machine

/-- The four transmission modes (43_modulator.md R165). -/
inductive Mode where
  | basic | clockInterleaved | brightness2bit | brightnessWithClock
  deriving DecidableEq, Repr

/-- The mode a MODE field names; none for the reserved values 4 to 7 (43_modulator.md R165). -/
def Mode.ofField (m : BitVec 3) : Option Mode :=
  if m = 0 then some .basic
  else if m = 1 then some .clockInterleaved
  else if m = 2 then some .brightness2bit
  else if m = 3 then some .brightnessWithClock
  else none

/-- The binary level of a bit: 1 on, 0 off (43_modulator.md R166). -/
def binaryLevel (x : Bool) : Byte := if x then 1 else 0

/-- `85 * g` for the group `hi lo`, `hi` the more significant (43_modulator.md R169, R171). -/
def groupLevel (hi lo : Bool) : Byte := BitVec.ofNat 8 (85 * (2 * hi.toNat + lo.toNat))

/-- The clock bit of the level at index k: `k mod 2` (43_modulator.md R168, R170, R174). -/
def clockBit (k : Nat) : Bool := k % 2 == 1

/-- The groups of two bits of an even-length string, clk 0 (43_modulator.md R169). -/
def groupLevels : Bits → List Level
  | hi :: lo :: y => { level := groupLevel hi lo, clk := false } :: groupLevels y
  | [_] => []
  | [] => []

/-- The pad of an odd-length string: one `1` after its last bit (43_modulator.md R169). -/
def padEven (x : Bits) : Bits := if x.length % 2 = 1 then x ++ [true] else x

/-- Modulate (43_modulator.md R166 to R170). -/
def modulate (m : Mode) (x : Bits) : List Level :=
  match m with
  | .basic => x.map (fun b => { level := binaryLevel b, clk := false })
  | .clockInterleaved => x.mapIdx (fun k b => { level := binaryLevel b, clk := clockBit k })
  | .brightness2bit => groupLevels (padEven x)
  | .brightnessWithClock => x.mapIdx (fun k b => { level := groupLevel (clockBit k) b, clk := clockBit k })

end Sys2Proof.Machine
end

