-- ==== Sys2Proof/Machine/Scheduler.lean ====
section
/-! DEFINITION. The drift-compensated scheduler (44_scheduler.md): what START computes and checks, the compensated
delay, and the engine step. -/

namespace Sys2Proof.Machine

/-! ### START -/

/-- PAYLOAD[0..LEN-1] as an accepted START reads it (42_frame.md R150). -/
def State.payloadBytes (s : State) : List Byte := (List.range s.len.toNat).map s.readPayload

/-- `floor(TICK_HZ / BPS)` (44_scheduler.md R183). -/
def State.nominalPeriod (s : State) : Nat := s.params.tickHz / s.bps.toNat

/-- The level list an accepted START fixes, in the mode `m` (44_scheduler.md R187). -/
def State.planLevels (s : State) (m : Mode) : List Level :=
  modulate m (frameBits s.payloadBytes s.hamEn s.xparEn)

/-- What START finds: the code of the first failing check, or the mode it starts in (44_scheduler.md R186). -/
inductive StartCheck where
  | rejected (e : ErrCode)
  | accepted (m : Mode)
  deriving DecidableEq, Repr

/-- The checks of START, in order (44_scheduler.md R186). -/
def startCheck (s : State) : StartCheck :=
  if s.sched = .running then .rejected .transmissionInProgress
  else
    match Mode.ofField s.modeField with
    | none => .rejected .invalidConfig
    | some m =>
      if s.bps = 0 ∨ s.nominalPeriod = 0 then .rejected .invalidConfig
      else if s.params.nBuf < s.len.toNat then .rejected .invalidInput
      else .accepted m

/-! ### Engine step -/

/-- 2^TIME_W, TIME_W = 64 (00_scope.md R9). -/
def timeModulus : Nat := 2 ^ 64

/-- `NOW - LAST` modulo 2^TIME_W (44_scheduler.md R190, R194). -/
def State.measuredGap (s : State) : Nat := (((s.now : Int) - (s.last : Int)) % (timeModulus : Int)).toNat

/-- The delay requested at an emission: P at the first (44_scheduler.md R193), then `max(0, P + (P - gap))`, computed
as an integer before the clamp (R195). -/
def State.compensatedDelay (s : State) : Nat :=
  if s.haveLast then
    (max 0 ((s.period.toNat : Int) + ((s.period.toNat : Int) - (s.measuredGap : Int)))).toNat
  else s.period.toNat

/-- EngineStep (44_scheduler.md R190), with the ports it drives (R191, R192). -/
def engineStep (k : SinkIn) (s : State) : Result :=
  if s.sched ≠ .running then .next s.quietPorts
  else if s.phase = .wait ∧ s.now < s.due then .next s.quietPorts
  else if s.phase = .wait ∧ s.index = s.total then .next s.quietPorts.finishTransmission
  else
    match s.levels[s.index.toNat]? with
    | none => .fault .levelIndexOutOfRange
    | some l =>
      if k.evReady then .next (s.emitLevel l k.sinkErr s.compensatedDelay)
      else .next (s.offerLevel l)

end Sys2Proof.Machine
end

