-- ==== Sys2Proof/Machine/Control.lean ====
section
/-! DEFINITION. The meanings of the commands NOP, START and CANCEL (40_commands.md, 44_scheduler.md). -/

namespace Sys2Proof.Machine

/-- NOP: `ERR <- OK`, nothing else, in every STATE (40_commands.md R112). -/
def execNop (s : State) : Result := accept s

/-- START (44_scheduler.md R187). -/
def execStart (s : State) : Result :=
  match startCheck s with
  | .rejected e => reject e s
  | .accepted m => accept (s.beginTransmission (s.planLevels m) (BitVec.ofNat 32 s.nominalPeriod))

/-- CANCEL (44_scheduler.md R200). -/
def execCancel (s : State) : Result :=
  if s.sched = .running then accept s.cancelTransmission else accept s

end Sys2Proof.Machine
end

