-- ==== Sys2Proof/Machine/Bus.lean ====
section
/-! DEFINITION. The meanings of the host bus accesses (20_memory.md section 3). -/

namespace Sys2Proof.Machine

/-- RD: `hrdata` takes RegRead(a); a read has no side effect on any state (20_memory.md R55). -/
def execRd (a : WordAddr) (s : State) : Result := .next (s.setHrdata (regRead s a))

/-- WR_CMD: Command(w) (40_commands.md R110): decode, then exactly one command, or `reject(InvalidCommand)`. -/
def execWrCmd (w : Word) (s : State) : Result :=
  match decodeRow w with
  | .reservedOpcode => reject .invalidCommand s
  | .reservedBits => reject .invalidCommand s
  | .row .nop => execNop s
  | .row .start => execStart s
  | .row .cancel => execCancel s
  | .row .henc => execHenc (nibOf w) (xpOf w) s
  | .row .hdec => execHdec (blkOf w) (xpOf w) s
  | .row .hchk => execHchk (blkOf w) (xpOf w) s

/-- WR_CONFIG: `CONFIG <- zext_32(v[4:0])` (20_memory.md R59). -/
def execWrConfig (v : Word) (s : State) : Result := lockedWrite (fun t => t.setConfig (v.extractLsb' 0 5)) s

/-- WR_BPS: `BPS <- v` (20_memory.md R60). -/
def execWrBps (v : Word) (s : State) : Result := lockedWrite (fun t => t.setBps v) s

/-- WR_LEN: `LEN <- v` (20_memory.md R61). -/
def execWrLen (v : Word) (s : State) : Result := lockedWrite (fun t => t.setLen v) s

/-- WR_PAYLOAD: `PAYLOAD[k] <- v[7:0]` (20_memory.md R62). Where k is not below N_BUF the address is unmapped and the
write has no effect (R58); the bus decoder never gives such a k (log 15). -/
def execWrPayload (k : BitVec 10) (v : Word) (s : State) : Result :=
  if k.toNat < s.params.nBuf then lockedWrite (fun t => t.setPayload k.toNat (v.extractLsb' 0 8)) s else .next s

/-- WR_IGNORED: no effect, ERR unchanged (20_memory.md R58; log 13). -/
def execWrIgnored (_a : WordAddr) (_v : Word) (s : State) : Result := .next s

end Sys2Proof.Machine
end

