-- ==== Sys2Proof/Machine/Dispatch.lean ====
section
/-! DEFINITION. What an instruction does within its tick's host access (40_commands.md R110, 20_memory.md R55, R56):
one arm per constructor. The engine step and the advance of NOW are the tick's (Machine/Tick.lean). -/

namespace Sys2Proof.Machine

def exec (i : Instr) (s : State) : Host.Outcome State Fault Refusal :=
  match i with
  | .nop => Sys2Proof.Machine.execNop s
  | .start => Sys2Proof.Machine.execStart s
  | .cancel => Sys2Proof.Machine.execCancel s
  | .henc nib xp => Sys2Proof.Machine.execHenc nib xp s
  | .hdec blk xp => Sys2Proof.Machine.execHdec blk xp s
  | .hchk blk xp => Sys2Proof.Machine.execHchk blk xp s
  | .rd a => Sys2Proof.Machine.execRd a s
  | .wrCmd w => Sys2Proof.Machine.execWrCmd w s
  | .wrConfig v => Sys2Proof.Machine.execWrConfig v s
  | .wrBps v => Sys2Proof.Machine.execWrBps v s
  | .wrLen v => Sys2Proof.Machine.execWrLen v s
  | .wrPayload k v => Sys2Proof.Machine.execWrPayload k v s
  | .wrIgnored a v => Sys2Proof.Machine.execWrIgnored a v s

end Sys2Proof.Machine
end

