-- ==== Sys2Proof/Machine/Tick.lean ====
section
/-! DEFINITION. One tick (70_reset_and_hazards.md R253): its inputs, the access it fetches, and the order of its
events. `run` stands for the meaning of an access; Machine/Step.lean gives it `exec`. -/

namespace Sys2Proof.Machine

/-- A tick with no host access and no reset (20_memory.md R51). -/
def HostIn.idle : HostIn := { rst := false, hsel := false, hwrite := false, haddr := 0, hwdata := 0 }

/-- The host's inputs of this tick: no access where the list has ended (log 1). -/
def State.hostIn (s : State) : HostIn := s.host.headD HostIn.idle

/-- The sink's inputs of this tick: free values where the list has ended (44_scheduler.md R185; log 2). -/
def State.sinkIn (s : State) : SinkIn :=
  match s.sink with
  | k :: _ => k
  | [] => { evReady := Config.evReady s.draws, sinkErr := Config.sinkErr s.draws }

/-- The access of this tick, decoded; none in a tick with hsel = 0 (20_memory.md R51, 30_encoding.md R84). -/
def State.fetch (s : State) : Option Instr :=
  if s.hostIn.hsel then
    decode s.params.nBuf (.bus (busCode s.hostIn.hwrite s.hostIn.haddr) s.hostIn.hwdata)
  else none

/-- A tick with rst = 1: no access, no engine step, every element reset (70_reset_and_hazards.md R250). -/
def resetTick (s : State) : Result := .next s.takeInputs.hardReset

/-- The events of a tick after the host access: the engine step, then NOW <- NOW + 1 (70_reset_and_hazards.md R253). -/
def endTick (k : SinkIn) (s : State) : Result :=
  match engineStep k s with
  | .next t => .next t.advanceNow
  | .fault f => .fault f
  | .refused r => .refused r

/-- The host access of the tick, if it has one, and what follows it (70_reset_and_hazards.md R253). -/
def accessTick (run : Instr → State → Result) (s : State) : Result :=
  match s.fetch with
  | none => endTick s.sinkIn s.takeInputs
  | some i =>
    match run i s.takeInputs with
    | .next t => endTick s.sinkIn t
    | .fault f => .fault f
    | .refused r => .refused r

/-- One tick (70_reset_and_hazards.md R253): reset first, which overrides the rest (60_exceptions.md R228). A tick that
begins with NOW = 2^64 - 1 is refused (10_state.md R31; log 6). -/
def tick (run : Instr → State → Result) (s : State) : Result :=
  if s.hostIn.rst then resetTick s
  else if timeModulus ≤ s.now + 1 then .refused .timeExhausted
  else accessTick run s

/-- The host's inputs of a tick that makes the access an encoding stands for: a command word is written to CMD
(30_encoding.md R80), a bus code is driven with its data word. -/
def Encoding.hostIn : Encoding → HostIn
  | .command w => { rst := false, hsel := true, hwrite := true, haddr := addrCmd, hwdata := w }
  | .bus code v => { rst := false, hsel := true, hwrite := hwriteOf code, haddr := haddrOf code, hwdata := v }

end Sys2Proof.Machine
end

