-- ==== Sys2Proof/Machine/Step.lean ====
section
/-! DEFINITION. One step of the machine is one tick of the block (70_reset_and_hazards.md R253). -/

namespace Sys2Proof.Machine

/-- One tick, its host access run by `exec`. -/
def step (s : State) : Host.Outcome State Fault Refusal := tick exec s

/-- `s` with the instruction of the opcode-table word `w` as the host access of its next tick; unchanged where the table
has no such word. -/
def State.withFetchWord (s : State) (nbits w : Nat) : State :=
  match tableEncoding nbits w with
  | some e => { s with host := Encoding.hostIn e :: s.host.tail }
  | none => s

end Sys2Proof.Machine
end

