-- ==== Sys2Proof/Machine/Script.lean ====
section
/-! DEFINITION. The host-script notation (30_encoding.md section 5): its lines, and the host inputs they stand for. The
notation writes down what the host does; the block never reads it. WAITDONE (R97), a loop of the host on what it reads,
is in Machine/WaitDone.lean (log 16). -/

namespace Sys2Proof.Machine

/-- The target of a host write or read (30_encoding.md R95). -/
inductive Target where
  | cmd | status | config | bps | len | index | total | period | codecRes | level
  | payload (k : Nat)
  | byteAddress (a : Nat)
  deriving DecidableEq, Repr

/-- The word address of a target. None for a byte address outside the 4 KiB space or with bits [1:0] not 0, which the
bus cannot express (20_memory.md R54), and for a PAYLOAD index outside the space (DESIGN CHOICE, log 17). -/
def Target.wordAddr : Target → Option WordAddr
  | .cmd => some addrCmd
  | .status => some addrStatus
  | .config => some addrConfig
  | .bps => some addrBps
  | .len => some addrLen
  | .index => some addrIndex
  | .total => some addrTotal
  | .period => some addrPeriod
  | .codecRes => some addrCodecRes
  | .level => some addrLevel
  | .payload k => if k < 768 then some (BitVec.ofNat 10 (payloadAddr k / 4)) else none
  | .byteAddress a => if a < 4096 ∧ a % 4 = 0 then some (BitVec.ofNat 10 (a / 4)) else none

/-- The command spellings (30_encoding.md R95). -/
inductive ScriptCmd where
  | nop | start | cancel
  | henc (n : Nat) (xp : Bool)
  | hdec (b : Nat) (xp : Bool)
  | hchk (b : Nat) (xp : Bool)
  deriving DecidableEq, Repr

/-- The assembler's limit on a block operand: 127 without `,X`, 255 with it (30_encoding.md R96). -/
def blockFits (b : Nat) (xp : Bool) : Bool := if xp then decide (b ≤ 255) else decide (b ≤ 127)

/-- The word of a command spelling; none where the assembler refuses its operand (30_encoding.md R96). -/
def ScriptCmd.word : ScriptCmd → Option Word
  | .nop => some (formatF0 0x00)
  | .start => some (formatF0 0x01)
  | .cancel => some (formatF0 0x02)
  | .henc n xp => if n ≤ 15 then some (formatFE 0x10 (BitVec.ofNat 4 n) xp) else none
  | .hdec b xp => if blockFits b xp then some (formatFB 0x11 (BitVec.ofNat 8 b) xp) else none
  | .hchk b xp => if blockFits b xp then some (formatFB 0x12 (BitVec.ofNat 8 b) xp) else none

/-- A line of a host script (30_encoding.md R95). -/
inductive ScriptLine where
  | write (t : Target) (v : Nat)
  | read (t : Target)
  | cmd (c : ScriptCmd)
  | idle (n : Nat)
  deriving DecidableEq, Repr

/-- The inputs of a tick that makes one access. -/
def accessIn (hwrite : Bool) (a : WordAddr) (v : Word) : HostIn :=
  { rst := false, hsel := true, hwrite := hwrite, haddr := a, hwdata := v }

/-- The host inputs a line stands for, one a tick (30_encoding.md R95). That a value which does not fit 32 bits is refused
is a DESIGN CHOICE: R95 and R96 give the value no bound (log 17). -/
def ScriptLine.inputs : ScriptLine → Option (List HostIn)
  | .write t v =>
    match t.wordAddr with
    | some a => if v < 2 ^ 32 then some [accessIn true a (BitVec.ofNat 32 v)] else none
    | none => none
  | .read t =>
    match t.wordAddr with
    | some a => some [accessIn false a 0]
    | none => none
  | .cmd c =>
    match c.word with
    | some w => some [accessIn true addrCmd w]
    | none => none
  | .idle n => some (List.replicate n HostIn.idle)

/-- The pseudo-instruction `CFG m, h, x` = `W CONFIG, m | (h << 3) | (x << 4)` (30_encoding.md R97). -/
def cfgLine (m h x : Nat) : ScriptLine := .write .config (m ||| h <<< 3 ||| x <<< 4)

/-- The pseudo-instruction `LOAD k, v` = `W PAYLOAD[k], v` (30_encoding.md R97). -/
def loadLine (k v : Nat) : ScriptLine := .write (.payload k) v

/-- The host inputs of a script; none where a line is refused. -/
def assemble : List ScriptLine → Option (List HostIn)
  | [] => some []
  | l :: ls =>
    match l.inputs, assemble ls with
    | some h, some hs => some (h ++ hs)
    | none, _ => none
    | some _, none => none

end Sys2Proof.Machine
end

