-- ==== Sys2Proof/WellFormed.lean ====
section
/-! DEFINITION. Which instructions are well formed for a buffer of `nBuf` bytes: those the bus decoder can produce
(20_memory.md R52, R56). The command rows have no ill-formed operand: HDEC and HCHK refuse BLK[7] with XP = 0 when they
run, by an error code (30_encoding.md R87). -/

namespace Sys2Proof

/-- WR_PAYLOAD names a byte of the buffer; WR_IGNORED names no writable register. -/
def Instr.wellFormed (nBuf : Nat) : Instr → Bool
  | .nop => true
  | .start => true
  | .cancel => true
  | .henc _ _ => true
  | .hdec _ _ => true
  | .hchk _ _ => true
  | .rd _ => true
  | .wrCmd _ => true
  | .wrConfig _ => true
  | .wrBps _ => true
  | .wrLen _ => true
  | .wrPayload k _ => decide (k.toNat < nBuf)
  | .wrIgnored a _ => !isWritable nBuf a

end Sys2Proof
end

