-- ==== Sys2Proof/Safety.lean ====
section
/-! DEFINITION. The terms claims use: the invariant of every run, what an access amounts to, and runs of several
ticks. -/

namespace Sys2Proof

/-- The instruction an access amounts to: a write of a command word to CMD is that command (40_commands.md R110). -/
def Instr.performed (i : Instr) : Instr :=
  match i with
  | .wrCmd w => (decodeCommand w).getD (.wrCmd w)
  | .nop => .nop
  | .start => .start
  | .cancel => .cancel
  | .henc nib xp => .henc nib xp
  | .hdec blk xp => .hdec blk xp
  | .hchk blk xp => .hchk blk xp
  | .rd a => .rd a
  | .wrConfig v => .wrConfig v
  | .wrBps v => .wrBps v
  | .wrLen v => .wrLen v
  | .wrPayload k v => .wrPayload k v
  | .wrIgnored a v => .wrIgnored a v

end Sys2Proof

namespace Sys2Proof.Machine

/-! ### The invariant -/

/-- A level value the modes produce (30_encoding.md R93): 0 or 1, and 0, 85, 170, 255. -/
abbrev LegalLevel (v : Byte) : Prop := v ∈ [(0 : Byte), 1, 85, 170, 255]

/-- The registers keep their form: legal parameters, CODEC_RES's reserved bits 0 and DST not 3 (10_state.md R36), NOW
in TIME_W bits (R31), a legal level on the port. -/
structure State.RegsOk (s : State) : Prop where
  params : s.params.Legal
  codecReserved : s.codecRes.extractLsb' 17 15 = 0
  codecStatus : s.codecRes.extractLsb' 13 2 ≠ 3
  nowFits : s.now < 2 ^ 64
  level : LegalLevel s.lvlOut

/-- PAYLOAD lists its bytes in the canonical form, at addresses of the buffer only (20_memory.md R52). -/
structure State.PayloadOk (s : State) : Prop where
  canonical : s.payload.wf = true
  inBuffer : ∀ c ∈ s.payload, ∃ k, k < s.params.nBuf ∧ c.1 = payloadAddr k

/-- The session state agrees with the registers (10_state.md R32 to R35). -/
structure State.SessionOk (s : State) : Prop where
  totalIsLength : s.levels.length = s.total.toNat
  indexLe : s.index.toNat ≤ s.total.toNat
  levelsLegal : ∀ l ∈ s.levels, LegalLevel l.level
  idleIsReset : s.sched = .idle → s.total = 0 ∧ s.period = 0 ∧ s.sinkErr = false
  doneIsComplete : s.sched = .done → s.cancelled = false → s.index = s.total
  cancelledIsDone : s.cancelled = true → s.sched = .done

/-- While a transmission runs, the engine's phase and times are those of its emissions so far (44_scheduler.md R190). -/
structure State.RunningOk (s : State) : Prop where
  periodPos : 1 ≤ s.period.toNat
  totalPos : 9 ≤ s.total.toNat
  offerHasLevel : s.phase = .offer → s.index.toNat < s.total.toNat
  waitHasLast : s.phase = .wait → s.haveLast = true
  firstIsZero : s.haveLast = false ↔ s.index = 0
  lastBeforeNow : s.haveLast = true → s.last < s.now
  lastBeforeDue : s.haveLast = true → s.last < s.due
  dueBound : s.haveLast = true → s.due < s.last + 2 * s.period.toNat

/-- The ports are those of the last tick's offer or emission (10_state.md R39, 44_scheduler.md R191, R192). -/
structure State.PortsOk (s : State) : Prop where
  fireIsValid : s.evFire = true → s.evValid = true
  quietIsZero : s.evValid = false → s.evLevel = 0 ∧ s.evClk = false
  fireIsEvent : s.evFire = s.event.isSome
  eventIsEmission : ∀ e, s.event = some e →
    e.level = s.lvlOut ∧ e.clk = s.clkOut ∧ e.now + 1 = s.now ∧ e.index + 1 = s.index

/-- The invariant of every run: State.reset has it and every step keeps it. -/
structure State.Inv (s : State) : Prop where
  regs : s.RegsOk
  payload : s.PayloadOk
  session : s.SessionOk
  running : s.sched = .running → s.RunningOk
  ports : s.PortsOk

/-! ### Accesses -/

/-- START is accepted: none of the checks of 44_scheduler.md R186 fails. -/
structure State.Startable (s : State) : Prop where
  notRunning : s.sched ≠ .running
  modeLegal : s.modeField.toNat ≤ 3
  bpsPos : 1 ≤ s.bps.toNat
  bpsLe : s.bps.toNat ≤ s.params.tickHz
  lenLe : s.len.toNat ≤ s.params.nBuf

/-- The mode a legal MODE field names (43_modulator.md R165). -/
def State.mode (s : State) : Mode := (Mode.ofField s.modeField).getD .basic

/-- The engine offers LEVELS[INDEX] in this tick (44_scheduler.md R191). -/
def State.Offering (s : State) : Prop :=
  s.sched = .running ∧ (s.phase = .offer ∨ (s.phase = .wait ∧ s.due ≤ s.now ∧ s.index ≠ s.total))

/-- The engine's delay still runs in this tick (44_scheduler.md R190). -/
def State.Waiting (s : State) : Prop := s.sched = .running ∧ s.phase = .wait ∧ s.now < s.due

/-- The last level's delay has run out: the transmission completes in this tick (44_scheduler.md R197). -/
def State.Completing (s : State) : Prop :=
  s.sched = .running ∧ s.phase = .wait ∧ s.due ≤ s.now ∧ s.index = s.total

/-- The tick is an ordinary one: no reset, and NOW has room (70_reset_and_hazards.md R253, 10_state.md R31). -/
def State.Ordinary (s : State) : Prop := s.hostIn.rst = false ∧ s.now + 1 < 2 ^ 64

/-- The values of 10_state.md R43, PAYLOAD apart, as the rule lists them. -/
structure State.AtReset (s : State) : Prop where
  sched : s.sched = .idle
  err : s.err = .ok
  sinkErr : s.sinkErr = false
  cancelled : s.cancelled = false
  config : s.config = 0
  bps : s.bps = 0
  len : s.len = 0
  index : s.index = 0
  total : s.total = 0
  period : s.period = 0
  codecRes : s.codecRes = 0
  lvlOut : s.lvlOut = 0
  clkOut : s.clkOut = false
  evValid : s.evValid = false
  evFire : s.evFire = false
  busy : s.busy = false
  now : s.now = 0
  levels : s.levels = []
  phase : s.phase = .wait
  due : s.due = 0
  last : s.last = 0
  haveLast : s.haveLast = false

/-! ### Runs -/

/-- The state after `n` ticks and the events of their emissions, in order. -/
def runEvents : Nat → State → Option (State × List Event)
  | 0, s => some (s, [])
  | n + 1, s =>
    match step s with
    | .next t =>
      match runEvents n t with
      | some (u, es) => some (u, t.event.toList ++ es)
      | none => none
    | .fault _ => none
    | .refused _ => none

/-- What the host does in a tick ends no transmission: no reset and no CANCEL. -/
def HostIn.LetsRun (nBuf : Nat) (h : HostIn) : Prop :=
  h.rst = false ∧ (h.hsel = true →
    (decodeBus nBuf (busCode h.hwrite h.haddr) h.hwdata).performed ≠ .cancel)

/-- The tick resets the block or begins a transmission. -/
def State.Restarts (s : State) : Prop :=
  s.hostIn.rst = true ∨ (s.Startable ∧ ∃ i, s.fetch = some i ∧ i.performed = .start)

/-- The sink accepts in each of the next `n` ticks (44_scheduler.md R205). -/
def State.SinkReady (s : State) (n : Nat) : Prop :=
  ∀ k, k < n → ∃ e, s.sink[k]? = some { evReady := true, sinkErr := e }

/-- The sink accepts in none of the next `n` ticks (44_scheduler.md R203). -/
def State.SinkBusy (s : State) (n : Nat) : Prop :=
  ∀ k, k < n → ∃ e, s.sink[k]? = some { evReady := false, sinkErr := e }

end Sys2Proof.Machine
end

