-- ==== Sys2Proof/Certificates/Slice0/Obligations.lean ====
section
/-! DEFINITION. The statements for the provers. Each docstring names the rule of spec/ it formalises. -/

open Sys2Proof Sys2Proof.Machine

/-! ### Reset and the tick -/

/-- 10_state.md R43: the values after a power-up reset, for every choice of the parameters; PAYLOAD holds nothing
written. -/
def Obligations.ResetLeavesTheListedValues : Prop :=
  ∀ p : Params, (State.resetWith p).AtReset ∧ (∀ k, (State.resetWith p).written? k = none) ∧
    State.reset = State.resetWith Params.default

/-- 70_reset_and_hazards.md R250: a tick with rst = 1 resets every element, whatever the host and the sink do in it, and
PAYLOAD keeps what it held (log 4). That `hrdata` and the event record are then empty is the model's own (log 7, 8), and
that `ev_level` and `ev_clk` are 0 is 10_state.md R39's '0 otherwise', which R43 does not list (log 9). -/
def Obligations.ResetTickOverridesTheTick : Prop :=
  ∀ s : State, s.hostIn.rst = true → ∃ t, step s = .next t ∧ t.AtReset ∧
    t.evLevel = 0 ∧ t.evClk = false ∧ t.hrdata = none ∧ t.event = none ∧
    t.payload = s.payload ∧ t.params = s.params

/-- 70_reset_and_hazards.md R253 with 20_memory.md R51: in an ordinary tick with hsel = 1, `step` runs the decoded
access by `exec`, then the engine step with the tick's sink inputs, then NOW + 1; with hsel = 0 there is no access. That
the tick's inputs leave their lists, `hrdata` is cleared and the draw counter advances is the model's own (log 1, 2, 7,
10). -/
def Obligations.StepRunsTheDecodedAccess : Prop :=
  ∀ s : State, s.Ordinary →
    let s0 : State := { s with host := s.host.tail, sink := s.sink.tail, hrdata := none }
    let rest (t : State) : Host.Outcome State Fault Refusal :=
      match engineStep s.sinkIn t with
      | .next u => .next { u with now := u.now + 1, draws := u.draws + 1 }
      | .fault f => .fault f
      | .refused r => .refused r
    (∀ i, s.hostIn.hsel = true →
      decodeBus s.params.nBuf (busCode s.hostIn.hwrite s.hostIn.haddr) s.hostIn.hwdata = i →
      ∃ t, exec i s0 = .next t ∧ step s = rest t) ∧
    (s.hostIn.hsel = false → step s = rest s0)

/-- 10_state.md R31: NOW advances by exactly one in every tick that is not a reset tick, and the run is refused exactly
where NOW has reached 2^64 - 1. -/
def Obligations.NowAdvancesByOneUntilRefused : Prop :=
  (∀ s t : State, step s = .next t → s.hostIn.rst = false → t.now = s.now + 1) ∧
  (∀ (s : State) (r : Refusal), step s = .refused r ↔
    r = .timeExhausted ∧ s.hostIn.rst = false ∧ 2 ^ 64 - 1 ≤ s.now)

/-! ### Decoding -/

/-- 30_encoding.md R83, R98, R84: words written out from the encodings decode to the instructions they stand for. -/
def Obligations.SpecWordsDecode : Prop :=
  decodeCommand 0x00000000 = some .nop ∧
  decodeCommand 0x00000001 = some .start ∧
  decodeCommand 0x00000002 = some .cancel ∧
  decodeCommand 0x00000B10 = some (.henc 0xB false) ∧
  decodeCommand 0x00010B10 = some (.henc 0xB true) ∧
  decodeCommand 0x00003711 = some (.hdec 0x37 false) ∧
  decodeCommand 0x00016711 = some (.hdec 0x67 true) ∧
  decodeCommand 0x00003312 = some (.hchk 0x33 false) ∧
  decodeCommand 0x00000020 = none ∧
  decodeCommand 0x00000101 = none ∧
  decodeBus 256 0b00000000001 0 = .rd 0x001 ∧
  decodeBus 256 0b10000000000 0x00000B10 = .wrCmd 0x00000B10 ∧
  decodeBus 256 0b10000000010 0x0000001F = .wrConfig 0x0000001F ∧
  decodeBus 256 0b10000000011 100 = .wrBps 100 ∧
  decodeBus 256 0b10000000100 1 = .wrLen 1 ∧
  decodeBus 256 0b10100000011 0x41 = .wrPayload 3 0x41 ∧
  decodeBus 256 0b10000000001 5 = .wrIgnored 0x001 5 ∧
  decodeBus 256 0b11000000000 5 = .wrIgnored 0x200 5

/-- Decode and encode agree: for every legal buffer size and every well-formed instruction, with every operand. -/
def Obligations.DecodeEncodeAgree : Prop :=
  ∀ (p : Params) (i : Instr), p.Legal → i.wellFormed p.nBuf = true → decode p.nBuf (encode i) = some i

/-- The other direction: a command word, or a bus write, is the encoding of the instruction it decodes to, and that
instruction is well formed: no two words mean the same instruction. -/
def Obligations.EveryDecodedWordIsTheEncodingOfItsInstruction : Prop :=
  (∀ (w : Word) (i : Instr), decodeCommand w = some i → encode i = .command w) ∧
  (∀ (n : Nat) (code : BusCode) (v : Word), code.getLsbD 10 = true →
    encode (decodeBus n code v) = .bus code v ∧ (decodeBus n code v).wellFormed n = true)

/-- 30_encoding.md R83 and R89: the command decoder, by the match and mask of each row, as one equation over all words. -/
def Obligations.CommandDecoderFollowsTheOpcodeMap : Prop :=
  ∀ w : Word, decodeCommand w =
    if w = 0x00000000 then some .nop
    else if w = 0x00000001 then some .start
    else if w = 0x00000002 then some .cancel
    else if w &&& 0xFFFEF0FF = 0x00000010 then some (.henc (w.extractLsb' 8 4) (w.getLsbD 16))
    else if w &&& 0xFFFE00FF = 0x00000011 then some (.hdec (w.extractLsb' 8 8) (w.getLsbD 16))
    else if w &&& 0xFFFE00FF = 0x00000012 then some (.hchk (w.extractLsb' 8 8) (w.getLsbD 16))
    else none

/-- 30_encoding.md R85, R86: a command word with a reserved opcode, or with a reserved-zero bit of its format set, is
rejected with InvalidCommand and has no other effect. -/
def Obligations.UndefinedCommandWordsAreInvalidCommand : Prop :=
  ∀ (s : State) (w : Word),
    (w.extractLsb' 0 8 ∉ [0x00#8, 0x01#8, 0x02#8, 0x10#8, 0x11#8, 0x12#8] ∨
     (w.extractLsb' 0 8 ∈ [0x00#8, 0x01#8, 0x02#8] ∧ w.extractLsb' 8 24 ≠ 0) ∨
     (w.extractLsb' 0 8 = 0x10#8 ∧ (w.extractLsb' 17 15 ≠ 0 ∨ w.extractLsb' 12 4 ≠ 0)) ∨
     (w.extractLsb' 0 8 ∈ [0x11#8, 0x12#8] ∧ w.extractLsb' 17 15 ≠ 0)) →
    exec (.wrCmd w) s = .next { s with err := .invalidCommand }

/-- 40_commands.md R110: a write of a command word to CMD performs the command the word decodes to, within the access;
with `UndefinedCommandWordsAreInvalidCommand` this covers every word. -/
def Obligations.CommandWritePerformsTheDecodedCommand : Prop :=
  ∀ (s : State) (w : Word),
    (∀ i, decodeCommand w = some i → exec (.wrCmd w) s = exec i s) ∧
    (decodeCommand w = none → exec (.wrCmd w) s = .next { s with err := .invalidCommand }) ∧
    ∃ t, exec (.wrCmd w) s = .next t

/-! ### What each instruction does -/

/-- 40_commands.md R112: NOP is the word 0 exactly; it sets ERR to OK and changes nothing else, in every STATE; a word
with OP = 0x00 and another bit set is InvalidCommand. -/
def Obligations.NopSetsErrToOk : Prop :=
  (∀ s : State, exec .nop s = .next { s with err := .ok }) ∧
  (∀ w : Word, decodeCommand w = some .nop ↔ w = 0) ∧
  (∀ (s : State) (w : Word), w.extractLsb' 0 8 = 0 → w ≠ 0 → exec (.wrCmd w) s = .next { s with err := .invalidCommand })

/-- 44_scheduler.md R200: CANCEL ends a running transmission, and otherwise changes only ERR. -/
def Obligations.CancelEndsARunningTransmission : Prop :=
  ∀ s : State,
    (s.sched = .running → exec .cancel s = .next { s with sched := .done, cancelled := true, err := .ok }) ∧
    (s.sched ≠ .running → exec .cancel s = .next { s with err := .ok })

/-- 44_scheduler.md R187: an accepted START fixes the levels and the period and starts the session; nothing else
changes. The mode is the one CONFIG.MODE names (43_modulator.md R165), and the payload is PAYLOAD[0..LEN-1] in rising
index (42_frame.md R150), each byte as a read of it gives it. -/
def Obligations.StartBeginsATransmission : Prop :=
  ∀ s : State, s.Startable →
    (s.modeField = 0 → s.mode = .basic) ∧ (s.modeField = 1 → s.mode = .clockInterleaved) ∧
    (s.modeField = 2 → s.mode = .brightness2bit) ∧ (s.modeField = 3 → s.mode = .brightnessWithClock) ∧
    s.payloadBytes.length = s.len.toNat ∧
    (∀ k, k < s.len.toNat → s.payloadBytes[k]? = some (s.readPayload k)) ∧
    (∀ k v, s.payload.get? (0x400 + 4 * k) = some v → s.readPayload k = v) ∧
    exec .start s = .next { s with
      levels := modulate s.mode (frameBits s.payloadBytes s.hamEn s.xparEn)
      total := BitVec.ofNat 32 (modulate s.mode (frameBits s.payloadBytes s.hamEn s.xparEn)).length
      period := BitVec.ofNat 32 (s.params.tickHz / s.bps.toNat)
      index := 0, haveLast := false, phase := .offer
      sinkErr := false, cancelled := false, sched := .running, err := .ok }

/-- 44_scheduler.md R186: START is rejected by the first failing check, with ERR alone changed. -/
def Obligations.StartRejectsByTheFirstFailingCheck : Prop :=
  ∀ s : State,
    (s.sched = .running → exec .start s = .next { s with err := .transmissionInProgress }) ∧
    (s.sched ≠ .running → 4 ≤ s.modeField.toNat → exec .start s = .next { s with err := .invalidConfig }) ∧
    (s.sched ≠ .running → s.modeField.toNat ≤ 3 → (s.bps = 0 ∨ s.params.tickHz / s.bps.toNat = 0) →
      exec .start s = .next { s with err := .invalidConfig }) ∧
    (s.sched ≠ .running → s.modeField.toNat ≤ 3 → s.bps ≠ 0 → s.params.tickHz / s.bps.toNat ≠ 0 →
      s.params.nBuf < s.len.toNat → exec .start s = .next { s with err := .invalidInput })

/-- 43_modulator.md R172 and 42_frame.md R158, 44_scheduler.md R183: TOTAL after an accepted START is the count of the
mode and the payload width, and PERIOD is floor(TICK_HZ / BPS), neither truncated by the register's width. -/
def Obligations.StartSetsTotalAndPeriod : Prop :=
  ∀ s t : State, s.params.Legal → s.Startable → exec .start s = .next t →
    let w := if s.hamEn then (if s.xparEn then 16 * s.len.toNat else 14 * s.len.toNat) else 8 * s.len.toNat
    t.total.toNat = (if s.modeField = 2 then (w + 17 + 1) / 2 else w + 17) ∧
    t.levels.length = t.total.toNat ∧
    t.period.toNat = s.params.tickHz / s.bps.toNat ∧ 1 ≤ t.period.toNat

/-- 41_hamming.md R133 with R124, R125, 30_encoding.md R91: HENC writes the block `p1 p2 d1 p4 d2 d3 d4 [q]` of the
nibble, packed most significant bit first, to CODEC_RES, and ERR <- OK. -/
def Obligations.HencWritesTheBlock : Prop :=
  ∀ (s : State) (nib : BitVec 4) (xp : Bool),
    let d1 := nib.getLsbD 3
    let d2 := nib.getLsbD 2
    let d3 := nib.getLsbD 1
    let d4 := nib.getLsbD 0
    let p1 := d1 ^^ d2 ^^ d4
    let p2 := d1 ^^ d3 ^^ d4
    let p4 := d2 ^^ d3 ^^ d4
    let q := p1 ^^ p2 ^^ d1 ^^ p4 ^^ d2 ^^ d3 ^^ d4
    let blk : BitVec 7 := BitVec.ofBool p1 ++ BitVec.ofBool p2 ++ BitVec.ofBool d1 ++ BitVec.ofBool p4 ++
      BitVec.ofBool d2 ++ BitVec.ofBool d3 ++ BitVec.ofBool d4
    exec (.henc nib xp) s = .next { s with
      codecRes := if xp then (0#15 ++ 1#1 ++ 0#8 ++ (blk ++ BitVec.ofBool q : BitVec 8) : BitVec 32)
        else (0#15 ++ 0#1 ++ 0#8 ++ (0#1 ++ blk : BitVec 8) : BitVec 32)
      err := .ok }

/-- 41_hamming.md R137: HDEC of a block operand of its size writes the decode of the block to CODEC_RES, field by
field, and ERR <- OK. -/
def Obligations.HdecWritesTheDecodedBlock : Prop :=
  ∀ (s : State) (blk : Byte) (xp : Bool), (xp = true ∨ blk.getLsbD 7 = false) →
    let b := if xp then bitsOf 8 blk else bitsOf 7 (blk.extractLsb' 0 7)
    let r := if xp then hamDecode8 b else hamDecode7 b
    exec (.hdec blk xp) s = .next { s with
      codecRes := (0#15 ++ BitVec.ofBool xp ++ BitVec.ofBool (hamCheck b xp) ++ r.dst.code ++ BitVec.ofBool r.q ++
        (0#1 ++ r.syn : BitVec 4) ++ (0#4 ++ BitVec.ofNat 4 (pack r.data) : BitVec 8) : BitVec 32)
      err := .ok }

/-- 41_hamming.md R140: HCHK of a block operand of its size writes the check and the syndrome to CODEC_RES, and
ERR <- OK. -/
def Obligations.HchkWritesTheCheck : Prop :=
  ∀ (s : State) (blk : Byte) (xp : Bool), (xp = true ∨ blk.getLsbD 7 = false) →
    let b := if xp then bitsOf 8 blk else bitsOf 7 (blk.extractLsb' 0 7)
    exec (.hchk blk xp) s = .next { s with
      codecRes := (0#15 ++ BitVec.ofBool xp ++ BitVec.ofBool (hamCheck b xp) ++ 0#2 ++
        BitVec.ofBool (overallParity b) ++ (0#1 ++ syndrome b : BitVec 4) ++ 0#8 : BitVec 32)
      err := .ok }

/-- 30_encoding.md R87: HDEC and HCHK with XP = 0 and BLK[7] = 1 are rejected with InvalidInput and have no other
effect. -/
def Obligations.EightBitOperandWithoutXpIsInvalidInput : Prop :=
  ∀ (s : State) (blk : Byte), blk.getLsbD 7 = true →
    exec (.hdec blk false) s = .next { s with err := .invalidInput } ∧
    exec (.hchk blk false) s = .next { s with err := .invalidInput }

/-- 20_memory.md R55 with the layouts of 10_state.md R24 to R26 and R37: RegRead, by byte address; a read changes nothing
but the result of the tick's read, and returns the register as it was before the tick's engine step. -/
def Obligations.ReadReturnsTheAddressedRegister : Prop :=
  ∀ (s : State) (a : WordAddr),
    let state : BitVec 2 := match s.sched with | .idle => 0 | .running => 1 | .done => 2
    let err : BitVec 4 := match s.err with
      | .ok => 0 | .invalidInput => 1 | .invalidConfig => 2 | .transmissionInProgress => 3 | .invalidCommand => 4
    let v : Word :=
      if 4 * a.toNat = 0x000 then 0
      else if 4 * a.toNat = 0x004 then
        (0#22 ++ BitVec.ofBool s.cancelled ++ BitVec.ofBool s.sinkErr ++ err ++ 0#2 ++ state : BitVec 32)
      else if 4 * a.toNat = 0x008 then s.config.setWidth 32
      else if 4 * a.toNat = 0x00C then s.bps
      else if 4 * a.toNat = 0x010 then s.len
      else if 4 * a.toNat = 0x014 then s.index
      else if 4 * a.toNat = 0x018 then s.total
      else if 4 * a.toNat = 0x01C then s.period
      else if 4 * a.toNat = 0x020 then s.codecRes
      else if 4 * a.toNat = 0x024 then (0#23 ++ BitVec.ofBool s.clkOut ++ s.lvlOut : BitVec 32)
      else if 0x400 ≤ 4 * a.toNat ∧ a.toNat - 0x100 < s.params.nBuf then
        (s.readPayload (a.toNat - 0x100)).setWidth 32
      else 0
    exec (.rd a) s = .next { s with hrdata := some v } ∧
    (∀ t, s.Ordinary → s.hostIn.hsel = true → s.hostIn.hwrite = false → s.hostIn.haddr = a → step s = .next t →
      t.hrdata = some v)

/-- 20_memory.md R59, R60, R61: while not Running, a CONFIG write keeps the bits [4:0] of the word as MODE, HAM_EN,
XPAR_EN, and a BPS or LEN write stores all 32 bits; no value is refused, and a BPS of 0 or a LEN above N_BUF makes the
START after it fail. -/
def Obligations.RegisterWritesStoreTheirFields : Prop :=
  ∀ (s : State) (v : Word), s.sched ≠ .running →
    (∃ t, exec (.wrConfig v) s = .next t ∧ t = { s with config := t.config, err := .ok } ∧
      t.modeField = v.extractLsb' 0 3 ∧ t.hamEn = v.getLsbD 3 ∧ t.xparEn = v.getLsbD 4 ∧
      regRead t addrConfig = (v.extractLsb' 0 5).setWidth 32) ∧
    (∃ t, exec (.wrBps v) s = .next t ∧ t = { s with bps := v, err := .ok } ∧
      (v = 0 → exec .start t = .next { t with err := .invalidConfig })) ∧
    (∃ t, exec (.wrLen v) s = .next t ∧ t = { s with len := v, err := .ok } ∧
      (s.params.nBuf < v.toNat → ∃ e, e ≠ .ok ∧ exec .start t = .next { t with err := e }))

/-- 20_memory.md R62: a PAYLOAD[k] write with k < N_BUF while not Running stores v[7:0] at the byte address
0x400 + 4k; every other byte of the buffer reads as before, and only PAYLOAD and ERR change. -/
def Obligations.PayloadWriteStoresOneByte : Prop :=
  ∀ (s : State) (k : BitVec 10) (v : Word), s.sched ≠ .running → k.toNat < s.params.nBuf →
    ∃ t, exec (.wrPayload k v) s = .next t ∧ t = { s with payload := t.payload, err := .ok } ∧
      t.payload.get? (0x400 + 4 * k.toNat) = some (v.extractLsb' 0 8) ∧
      (∀ a, a ≠ 0x400 + 4 * k.toNat → t.payload.get? a = s.payload.get? a) ∧
      (∀ j, j ≠ k.toNat → t.readPayload j = s.readPayload j)

/-- 10_state.md R38, 20_memory.md R62, R55: a read of PAYLOAD[k] after a write of it returns v[7:0], bits [31:8] zero. -/
def Obligations.PayloadReadsBackTheByteWritten : Prop :=
  ∀ (s : State) (k : BitVec 10) (v : Word), s.params.Legal → s.sched ≠ .running → k.toNat < s.params.nBuf →
    ∃ t, exec (.wrPayload k v) s = .next t ∧
      exec (.rd (0x100 + k)) t = .next { t with hrdata := some ((v.extractLsb' 0 8).setWidth 32) }

/-- 20_memory.md R58: a write to STATUS, INDEX, TOTAL, PERIOD, CODEC_RES, LEVEL or an unmapped address (R52) decodes to
the ignored write, which changes no state, ERR included. -/
def Obligations.IgnoredWriteChangesNothing : Prop :=
  (∀ (n : Nat) (a : WordAddr) (v : Word),
    (4 * a.toNat ∈ [0x004, 0x014, 0x018, 0x01C, 0x020, 0x024] ∨ (0x028 ≤ 4 * a.toNat ∧ 4 * a.toNat < 0x400) ∨
      0x400 + 4 * n ≤ 4 * a.toNat) →
    decodeBus n (busCode true a) v = .wrIgnored a v) ∧
  (∀ (s : State) (a : WordAddr) (v : Word), exec (.wrIgnored a v) s = .next s)

/-- 20_memory.md R57: while Running, a write to CONFIG, BPS, LEN or PAYLOAD[k] changes nothing and sets ERR to
TransmissionInProgress; a read stays allowed. -/
def Obligations.RegistersAreLockedWhileRunning : Prop :=
  ∀ (s : State) (k : BitVec 10) (v : Word) (a : WordAddr), s.sched = .running →
    exec (.wrConfig v) s = .next { s with err := .transmissionInProgress } ∧
    exec (.wrBps v) s = .next { s with err := .transmissionInProgress } ∧
    exec (.wrLen v) s = .next { s with err := .transmissionInProgress } ∧
    (k.toNat < s.params.nBuf → exec (.wrPayload k v) s = .next { s with err := .transmissionInProgress }) ∧
    exec (.rd a) s = .next { s with hrdata := some (regRead s a) }

/-! ### Frames -/

/-- The frame of NOP, CANCEL, HENC, HDEC and HCHK: CANCEL may change STATE and CANCELLED, the codec commands CODEC_RES,
each ERR, and nothing else changes, no byte of PAYLOAD among it. -/
def Obligations.FrameOfNopCancelAndCodec : Prop :=
  ∀ s t : State,
    (exec .nop s = .next t → t = { s with err := t.err }) ∧
    (exec .cancel s = .next t → t = { s with sched := t.sched, cancelled := t.cancelled, err := t.err }) ∧
    (∀ i, ((∃ nib xp, i = Instr.henc nib xp) ∨ (∃ blk xp, i = Instr.hdec blk xp) ∨ (∃ blk xp, i = Instr.hchk blk xp)) →
      exec i s = .next t → t = { s with codecRes := t.codecRes, err := t.err }) ∧
    (∀ i, (i = Instr.nop ∨ i = Instr.cancel ∨ (∃ nib xp, i = Instr.henc nib xp) ∨ (∃ blk xp, i = Instr.hdec blk xp) ∨
        (∃ blk xp, i = Instr.hchk blk xp)) →
      exec i s = .next t → ∀ k, t.readPayload k = s.readPayload k)

/-- The frame of START: it may change the session, TOTAL, PERIOD, INDEX, SINK_ERR, CANCELLED, STATE and ERR; the
configuration it read, every byte of PAYLOAD, `lvl_out`, `clk_out`, CODEC_RES and the rest stay
(44_scheduler.md R187). -/
def Obligations.FrameOfStart : Prop :=
  ∀ s t : State, exec .start s = .next t →
    t = { s with
      levels := t.levels, total := t.total, period := t.period, index := t.index, haveLast := t.haveLast
      phase := t.phase, sinkErr := t.sinkErr, cancelled := t.cancelled, sched := t.sched, err := t.err } ∧
    ∀ k, t.readPayload k = s.readPayload k

/-- The frame of the bus accesses but WR_CMD (which is its command's, `CommandWritePerformsTheDecodedCommand`): RD
changes no state but the read's result; the register writes change their register and ERR; the PAYLOAD write changes
no byte but the one at 0x400 + 4k; the ignored write nothing. -/
def Obligations.FrameOfBusAccesses : Prop :=
  ∀ s t : State,
    (∀ a, exec (.rd a) s = .next t → t = { s with hrdata := t.hrdata } ∧ ∀ k, t.readPayload k = s.readPayload k) ∧
    (∀ v, exec (.wrConfig v) s = .next t →
      t = { s with config := t.config, err := t.err } ∧ ∀ k, t.readPayload k = s.readPayload k) ∧
    (∀ v, exec (.wrBps v) s = .next t →
      t = { s with bps := t.bps, err := t.err } ∧ ∀ k, t.readPayload k = s.readPayload k) ∧
    (∀ v, exec (.wrLen v) s = .next t →
      t = { s with len := t.len, err := t.err } ∧ ∀ k, t.readPayload k = s.readPayload k) ∧
    (∀ k v, exec (.wrPayload k v) s = .next t →
      t = { s with payload := t.payload, err := t.err } ∧
      ∀ a, a ≠ payloadAddr k.toNat → t.payload.get? a = s.payload.get? a) ∧
    (∀ a v, exec (.wrIgnored a v) s = .next t → t = s)

/-! ### Rules over all instructions -/

/-- Every instruction completes in the tick of its access, in every state (40_commands.md R113): none faults and none is
refused. -/
def Obligations.EveryInstructionCompletes : Prop :=
  ∀ (i : Instr) (s : State), ∃ t, exec i s = .next t

/-- 40_commands.md R111, 60_exceptions.md R222: an access that ends with an error code changes ERR alone, but for RD,
which sets no code, may find an old one, and changes its result alone. -/
def Obligations.RejectionIsPrecise : Prop :=
  ∀ (i : Instr) (s t : State), exec i s = .next t → t.err ≠ .ok →
    t = { s with err := t.err } ∨ ∃ a v, i = .rd a ∧ t = { s with hrdata := some v }

/-- 60_exceptions.md R221: reads, ignored writes and engine steps never change ERR; every other access leaves in ERR its
own outcome, whatever ERR held before. -/
def Obligations.ErrIsTheOutcomeOfTheLastWrite : Prop :=
  (∀ (s t : State) (a : WordAddr), exec (.rd a) s = .next t → t.err = s.err) ∧
  (∀ (s t : State) (a : WordAddr) (v : Word), exec (.wrIgnored a v) s = .next t → t.err = s.err) ∧
  (∀ (k : SinkIn) (s t : State), engineStep k s = .next t → t.err = s.err) ∧
  (∀ (i : Instr) (s t : State) (e : ErrCode), i.wellFormed s.params.nBuf = true →
    (∀ a, i ≠ .rd a) → (∀ a v, i ≠ .wrIgnored a v) →
    exec i s = .next t → ∃ t', exec i { s with err := e } = .next t' ∧ t'.err = t.err)

/-- 10_state.md R41: the writers of the flags. STATE is written by START, completion and CANCEL (and reset), SINK_ERR by
emissions and START, CANCELLED by CANCEL and START, CODEC_RES's flags by codec commands. -/
def Obligations.FlagsHaveOnlyTheListedWriters : Prop :=
  (∀ (i : Instr) (s t : State), exec i s = .next t →
    (i.performed ≠ .start → i.performed ≠ .cancel → t.sched = s.sched ∧ t.cancelled = s.cancelled) ∧
    (i.performed ≠ .start → t.sinkErr = s.sinkErr) ∧
    ((∀ nib xp, i.performed ≠ .henc nib xp) → (∀ blk xp, i.performed ≠ .hdec blk xp) →
      (∀ blk xp, i.performed ≠ .hchk blk xp) → t.codecRes = s.codecRes)) ∧
  (∀ (k : SinkIn) (s t : State), engineStep k s = .next t →
    t.cancelled = s.cancelled ∧ t.codecRes = s.codecRes ∧
    (t.sinkErr ≠ s.sinkErr → t.evFire = true) ∧
    (t.sched ≠ s.sched → s.sched = .running ∧ t.sched = .done ∧ s.index = s.total))

/-- 44_scheduler.md R180, 10_state.md R25: the transitions of STATE in an ordinary tick. -/
def Obligations.StateTransitionsAreTheListedOnes : Prop :=
  ∀ s t : State, s.Ordinary → step s = .next t →
    (t.sched = .idle → s.sched = .idle) ∧
    (s.sched = .idle → t.sched ≠ .done) ∧
    (s.sched ≠ .running → t.sched = .running →
      ∃ i, s.fetch = some i ∧ i.performed = .start ∧ s.Startable) ∧
    (s.sched = .running → t.sched ≠ .running → t.sched = .done ∧
      ((∃ i, s.fetch = some i ∧ i.performed = .cancel) ∨ s.Completing))

/-- 20_memory.md R69, 44_scheduler.md R188: while a transmission runs, no access but CANCEL changes anything of it. -/
def Obligations.TransmissionInFlightIsImmutable : Prop :=
  ∀ (i : Instr) (s t : State), s.sched = .running → i.performed ≠ .cancel → exec i s = .next t →
    t = { s with err := t.err, codecRes := t.codecRes, hrdata := t.hrdata }

/-- 20_memory.md R73: the engine step reads neither CONFIG, BPS, LEN nor PAYLOAD, and writes none of them, nor
CODEC_RES. -/
def Obligations.EngineIgnoresTheHostRegisters : Prop :=
  ∀ (k : SinkIn) (s t : State) (c : BitVec 5) (b l : Word) (p : Memory), engineStep k s = .next t →
    t.config = s.config ∧ t.bps = s.bps ∧ t.len = s.len ∧ t.payload = s.payload ∧ t.codecRes = s.codecRes ∧
    engineStep k { s with config := c, bps := b, len := l, payload := p } =
      .next { t with config := c, bps := b, len := l, payload := p }

/-! ### Hamming codec -/

/-- 41_hamming.md R138: HDEC of HENC's block with at most one position flipped gives the nibble back, clean if none was
flipped and corrected if one was. -/
def Obligations.HdecCorrectsEverySingleError : Prop :=
  ∀ (s t : State) (nib : BitVec 4) (xp : Bool), exec (.henc nib xp) s = .next t →
    (∃ u, exec (.hdec (t.codecRes.extractLsb' 0 8) xp) t = .next u ∧ u.err = .ok ∧
      u.codecRes.extractLsb' 0 8 = 0#4 ++ nib ∧ u.codecRes.extractLsb' 13 2 = 0) ∧
    (∀ j, j < 7 + xp.toNat → ∃ u, exec (.hdec (t.codecRes.extractLsb' 0 8 ^^^ (1#8 <<< j)) xp) t = .next u ∧
      u.err = .ok ∧ u.codecRes.extractLsb' 0 8 = 0#4 ++ nib ∧ u.codecRes.extractLsb' 13 2 = 1)

/-- 41_hamming.md R139: two flipped positions are reported uncorrectable with XP = 1; with XP = 0 the syndrome is not 0,
the status is corrected, and the data is wrong for some nibble and positions. -/
def Obligations.HdecOnDoubleErrors : Prop :=
  (∀ (s t : State) (nib : BitVec 4) (xp : Bool) (j k : Nat), exec (.henc nib xp) s = .next t →
    j < k → k < 7 + xp.toNat →
    ∃ u, exec (.hdec (t.codecRes.extractLsb' 0 8 ^^^ (1#8 <<< j) ^^^ (1#8 <<< k)) xp) t = .next u ∧ u.err = .ok ∧
      (xp = true → u.codecRes.extractLsb' 13 2 = 2) ∧
      (xp = false → u.codecRes.extractLsb' 8 4 ≠ 0 ∧ u.codecRes.extractLsb' 13 2 = 1)) ∧
  (∀ s : State, ∃ t u nib j k, exec (.henc nib false) s = .next t ∧ j < k ∧ k < 7 ∧
    exec (.hdec (t.codecRes.extractLsb' 0 8 ^^^ (1#8 <<< j) ^^^ (1#8 <<< k)) false) t = .next u ∧
    u.codecRes.extractLsb' 0 4 ≠ nib)

/-- 41_hamming.md R132, R134: HCHK reports CHK = 0 exactly for the blocks HENC produces. -/
def Obligations.HchkIsZeroExactlyOnCodewords : Prop :=
  ∀ (s : State) (blk : Byte) (xp : Bool), (xp = true ∨ blk.getLsbD 7 = false) →
    ∃ t, exec (.hchk blk xp) s = .next t ∧
      (t.codecRes.getLsbD 15 = false ↔
        ∃ nib u, exec (.henc nib xp) s = .next u ∧ u.codecRes.extractLsb' 0 8 = blk)

/-- 41_hamming.md R141 to R144, the stream forms, with blocks of n = 7 + XP bits. A length that is no whole number of
nibbles, or of blocks, is InvalidInput (none). Otherwise: the encoder gives the block of each nibble in order; the check
is 1 iff some block is no codeword; the decoder gives the data of each block in order and the worst block status; and
what was encoded decodes to itself, clean where no bit was flipped, corrected where at most one bit was flipped in each
block and some block had a flip. -/
def Obligations.StreamRoundTripsWithOneFlipPerBlock : Prop :=
  ∀ xp : Bool,
    let n := 7 + xp.toNat
    let blockAt (y : Bits) (m : Nat) : Bits := (y.drop (n * m)).take n
    let decoded (b : Bits) : Decoded := if xp then hamDecode8 b else hamDecode7 b
    (∀ x : Bits, x.length % 4 ≠ 0 → hamEncodeStream x xp = none) ∧
    (∀ x : Bits, x.length % 4 = 0 → ∃ y, hamEncodeStream x xp = some y ∧ y.length = x.length / 4 * n ∧
      (∀ m, m < x.length / 4 → blockAt y m = hamEncodeNibble (x.getD (4 * m) false) (x.getD (4 * m + 1) false)
        (x.getD (4 * m + 2) false) (x.getD (4 * m + 3) false) xp) ∧
      hamDecodeStream y xp = some (x, .clean) ∧
      ∀ y' : Bits, y'.length = y.length →
        (∀ m, m < x.length / 4 →
          blockAt y' m = blockAt y m ∨ ∃ i, 1 ≤ i ∧ i ≤ n ∧ blockAt y' m = flipAt (blockAt y m) i) →
        hamDecodeStream y' xp = some (x, if y' = y then .clean else .corrected)) ∧
    (∀ y : Bits, y.length % n ≠ 0 → hamDecodeStream y xp = none ∧ hamCheckStream y xp = none) ∧
    (∀ y : Bits, y.length % n = 0 →
      (∃ c, hamCheckStream y xp = some c ∧
        (c = true ↔ ∃ m, m < y.length / n ∧ hamCheck (blockAt y m) xp = true)) ∧
      ∃ x d, hamDecodeStream y xp = some (x, d) ∧ x.length = 4 * (y.length / n) ∧
        (∀ m, m < y.length / n → (x.drop (4 * m)).take 4 = (decoded (blockAt y m)).data) ∧
        (d = .uncorrectable ↔ ∃ m, m < y.length / n ∧ (decoded (blockAt y m)).dst = .uncorrectable) ∧
        (d = .clean ↔ ∀ m, m < y.length / n → (decoded (blockAt y m)).dst = .clean))

/-- 41_hamming.md R134: a block of HENC is a codeword, its data positions are the nibble, and the blocks of two nibbles
differ in at least 3 positions, at least 4 with XP = 1. -/
def Obligations.HencBlocksAreFarApart : Prop :=
  ∀ (n m : BitVec 4) (xp : Bool),
    hamCheck (hamEncodeField n xp) xp = false ∧ strip (hamEncodeField n xp) = bitsOf 4 n ∧
    (n ≠ m → 3 + xp.toNat ≤
      (List.zipWith (fun a b => (a ^^ b).toNat) (hamEncodeField n xp) (hamEncodeField m xp)).sum)

/-! ### Frame and levels -/

/-- 42_frame.md R153, R157, R158, 30_encoding.md R92: the frame by position, for every payload, HAM_EN and XPAR_EN; its
length W + 17 is odd; XPAR_EN without HAM_EN has no effect on it. -/
def Obligations.FrameLayoutByPosition : Prop :=
  ∀ (bytes : List Byte) (hamEn xparEn : Bool),
    let w := if hamEn then (if xparEn then 16 * bytes.length else 14 * bytes.length) else 8 * bytes.length
    let f := frameBits bytes hamEn xparEn
    f.length = w + 17 ∧ f.length % 2 = 1 ∧ f.take 8 = [true, true, true, true, false, false, true, true] ∧
      (f.drop 8).take w = payloadBits bytes hamEn xparEn ∧
      f.drop (8 + w) = [false, false, false, false, true, false, true, false] ++ [true] ∧
      (hamEn = false → f = frameBits bytes false false)

/-- 42_frame.md R151, R152: RawBits is the bytes in rising index, each most significant bit first; without HAM_EN it is
the payload, with it the payload is, byte by byte, the block of the high nibble and then that of the low nibble. -/
def Obligations.PayloadOrderInTheFrame : Prop :=
  ∀ (bytes : List Byte) (xparEn : Bool),
    (rawBits bytes).length = 8 * bytes.length ∧ payloadBits bytes false xparEn = rawBits bytes ∧
    some (payloadBits bytes true xparEn) = hamEncodeStream (rawBits bytes) xparEn ∧
    ∀ (k : Nat) (h : k < bytes.length),
      (∀ j, j < 8 → (rawBits bytes)[8 * k + j]? = some (bytes[k].getLsbD (7 - j))) ∧
      let n := 7 + xparEn.toNat
      ((payloadBits bytes true xparEn).drop (2 * n * k)).take (2 * n) =
        hamEncodeField (bytes[k].extractLsb' 4 4) xparEn ++ hamEncodeField (bytes[k].extractLsb' 0 4) xparEn

/-- 43_modulator.md R166, R168, R170: the level at index k of the one-bit modes; one level for each bit. -/
def Obligations.OneBitModesByIndex : Prop :=
  ∀ x : Bits,
    (modulate .basic x).length = x.length ∧ (modulate .clockInterleaved x).length = x.length ∧
    (modulate .brightnessWithClock x).length = x.length ∧
    ∀ (k : Nat) (b : Bool), x[k]? = some b →
      (modulate .basic x)[k]? = some ⟨if b then 1 else 0, false⟩ ∧
      (modulate .clockInterleaved x)[k]? = some ⟨if b then 1 else 0, k % 2 == 1⟩ ∧
      (modulate .brightnessWithClock x)[k]? = some ⟨BitVec.ofNat 8 (85 * (2 * (k % 2) + b.toNat)), k % 2 == 1⟩

/-- 43_modulator.md R169: the level m of `brightness_2bit` is 85 times the group of the bits 2m and 2m + 1, an odd string
padded with one `1` at its end. -/
def Obligations.BrightnessTwoBitByIndex : Prop :=
  ∀ x : Bits, (modulate .brightness2bit x).length = (x.length + 1) / 2 ∧
    ∀ m, m < (x.length + 1) / 2 → (modulate .brightness2bit x)[m]? =
      some ⟨BitVec.ofNat 8 (85 * (2 * (x.getD (2 * m) true).toNat + (x.getD (2 * m + 1) true).toNat)), false⟩

/-- 42_frame.md R160: the last level of every transmission, by mode. -/
def Obligations.LastLevelIsTheResetBits : Prop :=
  ∀ (bytes : List Byte) (hamEn xparEn : Bool),
    (modulate .basic (frameBits bytes hamEn xparEn)).getLast? = some ⟨1, false⟩ ∧
    (modulate .clockInterleaved (frameBits bytes hamEn xparEn)).getLast? = some ⟨1, false⟩ ∧
    (modulate .brightness2bit (frameBits bytes hamEn xparEn)).getLast? = some ⟨255, false⟩ ∧
    (modulate .brightnessWithClock (frameBits bytes hamEn xparEn)).getLast? = some ⟨85, false⟩

/-! ### Engine -/

/-- 44_scheduler.md R190, R191, R197: outside Running, and while the delay runs, the engine offers nothing and changes
only the ports of the tick; in the first tick with NOW at or past DUE after the last level it also sets STATE to Done. -/
def Obligations.EngineIsQuietWhenNotOffering : Prop :=
  ∀ (k : SinkIn) (s : State),
    ((s.sched ≠ .running ∨ s.Waiting) → engineStep k s = .next { s with
      evValid := false, evLevel := 0, evClk := false, evFire := false, event := none }) ∧
    (s.Completing → engineStep k s = .next { s with
      sched := .done, evValid := false, evLevel := 0, evClk := false, evFire := false, event := none })

/-- 44_scheduler.md R192: an emission: what it writes, all of it. -/
def Obligations.EmissionWritesTheOfferedLevel : Prop :=
  ∀ (s : State) (e : Bool) (l : Level), s.Offering → s.levels[s.index.toNat]? = some l →
    ∃ t, engineStep { evReady := true, sinkErr := e } s = .next t ∧
      t = { s with
        lvlOut := l.level, clkOut := l.clk, evValid := true, evLevel := l.level, evClk := l.clk, evFire := true
        event := some ⟨s.index, l.level, l.clk, s.now⟩, sinkErr := s.sinkErr || e
        last := s.now, haveLast := true, index := s.index + 1, due := t.due, phase := .wait }

/-- 44_scheduler.md R191: a level offered and not accepted stays offered: PHASE is OFFER, the ports show it, and nothing
else changes. -/
def Obligations.LateSinkLeavesTheOfferStanding : Prop :=
  ∀ (s : State) (e : Bool) (l : Level), s.Offering → s.levels[s.index.toNat]? = some l →
    engineStep { evReady := false, sinkErr := e } s = .next { s with
      phase := .offer, evValid := true, evLevel := l.level, evClk := l.clk, evFire := false, event := none }

/-- 44_scheduler.md R193, R194, R195, R196: the DUE an emission sets, for a measured gap NOW - LAST: P after the first
emission, then max(0, P + (P - gap)) as an integer, and at least one tick. -/
def Obligations.CompensatedDelay : Prop :=
  ∀ (s t : State) (e : Bool), s.Offering → s.now < 2 ^ 64 →
    engineStep { evReady := true, sinkErr := e } s = .next t →
    (s.haveLast = false → t.due = s.now + max s.period.toNat 1) ∧
    (s.haveLast = true → s.last ≤ s.now →
      (t.due : Int) = s.now +
        max (max 0 ((s.period.toNat : Int) + ((s.period.toNat : Int) - ((s.now : Int) - (s.last : Int))))) 1)

/-- 44_scheduler.md R202: `sink_err` changes SINK_ERR at an emission and nothing else; outside an emission it has no
effect. -/
def Obligations.SinkErrorsAreNotFatal : Prop :=
  ∀ (s t : State) (r : Bool), engineStep { evReady := r, sinkErr := false } s = .next t →
    engineStep { evReady := r, sinkErr := true } s = .next { t with sinkErr := t.sinkErr || t.evFire }

/-- 44_scheduler.md R200: a CANCEL while Running emits nothing in its own tick, even where a level was offered and the
sink is ready; INDEX and the outputs stay. -/
def Obligations.CancelTickEmitsNothing : Prop :=
  ∀ (s : State) (i : Instr), s.Ordinary → s.sched = .running → s.fetch = some i → i.performed = .cancel →
    ∃ t, step s = .next t ∧ t.sched = .done ∧ t.cancelled = true ∧ t.err = .ok ∧ t.index = s.index ∧
      t.evValid = false ∧ t.evFire = false ∧ t.event = none ∧ t.lvlOut = s.lvlOut ∧ t.clkOut = s.clkOut

/-- 44_scheduler.md R193: the first level is offered in the tick of the accepted START, emitted in it if the sink is
ready, and the delay after it is P. -/
def Obligations.FirstLevelIsOfferedInTheStartTick : Prop :=
  ∀ (s : State) (i : Instr), s.Ordinary → s.params.Legal → s.Startable → s.fetch = some i → i.performed = .start →
    ∃ t l, step s = .next t ∧ (s.planLevels s.mode)[0]? = some l ∧ t.sched = .running ∧
      t.evValid = true ∧ t.evLevel = l.level ∧ t.evClk = l.clk ∧ t.evFire = s.sinkIn.evReady ∧
      (s.sinkIn.evReady = true → t.index = 1 ∧ t.lvlOut = l.level ∧ t.clkOut = l.clk ∧
        t.event = some ⟨0, l.level, l.clk, s.now⟩ ∧ t.due = s.now + s.nominalPeriod) ∧
      (s.sinkIn.evReady = false → t.index = 0 ∧ t.phase = .offer ∧ t.lvlOut = s.lvlOut)

/-- 10_state.md R33, R21: INDEX moves by one at an emission and not otherwise; an accepted START sets it to 0. -/
def Obligations.IndexCountsTheEmissions : Prop :=
  ∀ s t : State, s.Ordinary → step s = .next t →
    ((∃ i, s.fetch = some i ∧ i.performed = .start ∧ s.Startable) ∧ t.index = (if t.evFire then 1 else 0)) ∨
    ((¬ ∃ i, s.fetch = some i ∧ i.performed = .start ∧ s.Startable) ∧
      t.index = s.index + (if t.evFire then 1 else 0))

/-! ### Invariants -/

/-- The invariant holds after reset, for every legal choice of the parameters. Its clauses on the event record and on
`ev_level` and `ev_clk` are the model's own after reset (log 8, 9). -/
def Obligations.InvariantHoldsAtReset : Prop :=
  ∀ p : Params, p.Legal → (State.resetWith p).Inv

/-- Every step keeps the invariant: legal parameters, CODEC_RES's reserved bits, PAYLOAD in canonical form and inside the
buffer, TOTAL the length of LEVELS, INDEX within it, the phase and the times of a running transmission, the ports (those of a reset tick by log 8 and 9). -/
def Obligations.EveryStepKeepsTheInvariant : Prop :=
  ∀ s t : State, s.Inv → step s = .next t → t.Inv

/-- No step faults from a state with the invariant: every ordinary tick and every reset tick answers a next state. -/
def Obligations.NoFaultUnderTheInvariant : Prop :=
  ∀ s : State, s.Inv → (s.Ordinary ∨ s.hostIn.rst = true) → ∃ t, step s = .next t

/-! ### Whole transmissions -/

/-- 44_scheduler.md R205: a START accepted in tick t_s, with the sink ready in every tick and whatever accesses the host
makes but CANCEL and reset, emits level k in tick t_s + k·P, for every k < N, each delay being P, and is Done after the
engine step of tick t_s + N·P, where the host reads it from the next tick on, and not before. -/
def Obligations.ZeroLatencyTiming : Prop :=
  ∀ (s : State) (i : Instr), s.params.Legal → s.Startable → s.hostIn.rst = false → s.fetch = some i →
    i.performed = .start →
    let n := (s.planLevels s.mode).length
    let p := s.nominalPeriod
    s.now + n * p + 1 < 2 ^ 64 → (∀ h ∈ s.host.tail, h.LetsRun s.params.nBuf) → s.SinkReady (n * p + 1) →
    ∀ m, m ≤ n * p → ∃ t es u, runEvents m s = some (t, es) ∧ step t = .next u ∧
      u.now = s.now + m + 1 ∧
      (m < n * p → u.sched = .running) ∧
      (m = n * p → u.sched = .done ∧ u.index.toNat = n ∧ (regRead u addrStatus).extractLsb' 0 2 = 2) ∧
      (∀ k l, m = k * p → (s.planLevels s.mode)[k]? = some l →
        u.event = some ⟨BitVec.ofNat 32 k, l.level, l.clk, s.now + k * p⟩ ∧ u.due = s.now + k * p + p) ∧
      ((¬ ∃ k, k < n ∧ m = k * p) → u.event = none)

/-- 44_scheduler.md R182: whatever the sink does, and whatever the host does short of a reset or an accepted START, the
events of a transmission are its levels in increasing index, each exactly once, and no two in one tick: at any time the
first INDEX of them, and all of them once the transmission is Done without a CANCEL. -/
def Obligations.EmissionOrderIsTheLevelOrder : Prop :=
  ∀ (s t : State) (i : Instr) (n : Nat) (es : List Event), s.params.Legal → s.Startable → s.hostIn.rst = false →
    s.fetch = some i → i.performed = .start →
    (∀ m u fs, 0 < m → m < n → runEvents m s = some (u, fs) → ¬ u.Restarts) →
    runEvents n s = some (t, es) →
    es.length ≤ (s.planLevels s.mode).length ∧
    (∀ k e, es[k]? = some e → ∃ l, (s.planLevels s.mode)[k]? = some l ∧
      e.index = BitVec.ofNat 32 k ∧ e.level = l.level ∧ e.clk = l.clk) ∧
    (es.map Event.now).Pairwise (· < ·) ∧
    (0 < n → es.length = t.index.toNat) ∧
    (0 < n → t.sched = .done → t.cancelled = false → es.length = (s.planLevels s.mode).length)

/-- 44_scheduler.md R203, 70_reset_and_hazards.md R261: a sink that accepts in none of n ticks leaves the block Running
with the same level offered, for every n, whatever accesses the host makes but CANCEL and reset. -/
def Obligations.BusySinkHangsTheTransmission : Prop :=
  ∀ (s : State) (l : Level) (n : Nat), s.Offering → s.levels[s.index.toNat]? = some l →
    (∀ h ∈ s.host, h.LetsRun s.params.nBuf) → s.SinkBusy (n + 1) → s.now + n + 1 < 2 ^ 64 →
    ∃ t u es, runEvents n s = some (t, es) ∧ step t = .next u ∧ es = [] ∧ u.sched = .running ∧ u.index = s.index ∧
      u.evValid = true ∧ u.evLevel = l.level ∧ u.evClk = l.clk ∧ u.evFire = false

/-- 44_scheduler.md R207: while no delay is clamped, two consecutive gaps sum to 2P plus the later latency: with an
emission in tick `last` before it, an emission in tick `now` with a gap of at most 2P - 1 sets DUE to last + 2P. -/
def Obligations.TwoGapsSumToTwoPeriods : Prop :=
  ∀ (s t : State) (e : Bool), s.Offering → s.now < 2 ^ 64 → s.haveLast = true → s.last ≤ s.now →
    engineStep { evReady := true, sinkErr := e } s = .next t →
    (s.now - s.last + 1 ≤ 2 * s.period.toNat → t.due = s.last + 2 * s.period.toNat) ∧
    (2 * s.period.toNat ≤ s.now - s.last → t.due = s.now + 1)
end

