-- ==== Sys2Proof/Laws/Decode.lean ====
section
/-! SUPPORT. The fields of the command formats and of the bus code, and the command decoder by its rows. -/

namespace Sys2Proof

@[simp] theorem haddrOf_busCode (b : Bool) (a : WordAddr) : haddrOf (busCode b a) = a := by
  unfold haddrOf busCode
  exact BitVec.extractLsb'_append_eq_right

@[simp] theorem hwriteOf_busCode (b : Bool) (a : WordAddr) : hwriteOf (busCode b a) = b := by
  unfold hwriteOf busCode
  refine (BitVec.getLsbD_append ..).trans ?_
  cases b <;> rfl

@[simp] theorem nibOf_formatFE (op : Byte) (nib : BitVec 4) (xp : Bool) : nibOf (formatFE op nib xp) = nib := by
  apply BitVec.eq_of_getLsbD_eq
  intro i hi
  simp only [formatFE, nibOf]
  interval_cases i <;> simp

@[simp] theorem xpOf_formatFE (op : Byte) (nib : BitVec 4) (xp : Bool) : xpOf (formatFE op nib xp) = xp := by
  simp [formatFE, xpOf]

@[simp] theorem blkOf_formatFB (op : Byte) (blk : Byte) (xp : Bool) : blkOf (formatFB op blk xp) = blk := by
  apply BitVec.eq_of_getLsbD_eq
  intro i hi
  simp only [formatFB, blkOf]
  interval_cases i <;> simp

@[simp] theorem xpOf_formatFB (op : Byte) (blk : Byte) (xp : Bool) : xpOf (formatFB op blk xp) = xp := by
  simp [formatFB, xpOf]

/-- A word of format FE keeps nothing but its opcode under the mask of HENC's row. -/
theorem formatFE_masked (op : Byte) (nib : BitVec 4) (xp : Bool) :
    formatFE op nib xp &&& 0xFFFEF0FF = op.setWidth 32 := by
  apply BitVec.eq_of_getLsbD_eq
  intro i hi
  simp only [formatFE]
  interval_cases i <;> simp

/-- A word of format FB keeps nothing but its opcode under the mask of HDEC's and HCHK's rows. -/
theorem formatFB_masked (op : Byte) (blk : Byte) (xp : Bool) :
    formatFB op blk xp &&& 0xFFFE00FF = op.setWidth 32 := by
  apply BitVec.eq_of_getLsbD_eq
  intro i hi
  simp only [formatFB]
  interval_cases i <;> simp

/-- A word that HENC's mask reduces to an opcode is that opcode's word of format FE. -/
theorem eq_formatFE_of_masked {w : Word} {op : Byte} (h : w &&& 0xFFFEF0FF = op.setWidth 32) :
    w = formatFE op (nibOf w) (xpOf w) := by
  apply BitVec.eq_of_getLsbD_eq
  intro i hi
  have hb := congrArg (fun v => BitVec.getLsbD v i) h
  simp only [formatFE, nibOf, xpOf]
  interval_cases i <;> simp at hb ⊢ <;> simp [hb]

/-- A word that HDEC's and HCHK's mask reduces to an opcode is that opcode's word of format FB. -/
theorem eq_formatFB_of_masked {w : Word} {op : Byte} (h : w &&& 0xFFFE00FF = op.setWidth 32) :
    w = formatFB op (blkOf w) (xpOf w) := by
  apply BitVec.eq_of_getLsbD_eq
  intro i hi
  have hb := congrArg (fun v => BitVec.getLsbD v i) h
  simp only [formatFB, blkOf, xpOf]
  interval_cases i <;> simp at hb ⊢ <;> simp [hb]

/-- The opcode a row fixes survives in every word the row selects. -/
theorem opcodeOf_of_selects {r : CmdRow} {w : Word} (h : r.selects w = true) : opcodeOf w = r.opcode := by
  simp only [CmdRow.selects, beq_iff_eq] at h
  apply BitVec.eq_of_getLsbD_eq
  intro i hi
  have hb := congrArg (fun v => BitVec.getLsbD v i) h
  simp only [opcodeOf]
  cases r <;> simp only [CmdRow.mask, CmdRow.pattern, CmdRow.opcode] at hb ⊢ <;>
    interval_cases i <;> simp at hb ⊢ <;> simp [hb]

/-- No two rows select one word (30_encoding.md R83). -/
theorem selects_unique {r r' : CmdRow} {w : Word} (h : r.selects w = true) (h' : r'.selects w = true) : r = r' := by
  have he : r.opcode = r'.opcode := (opcodeOf_of_selects h).symm.trans (opcodeOf_of_selects h')
  revert he; cases r <;> cases r' <;> decide

theorem mem_cmdRows (r : CmdRow) : r ∈ cmdRows := by cases r <;> decide

theorem decodeRow_eq_row {w : Word} {r : CmdRow} : decodeRow w = .row r ↔ r.selects w = true := by
  unfold decodeRow
  constructor
  · intro h
    split at h
    · rename_i r' hr
      cases h; exact List.find?_some (p := fun r => CmdRow.selects r w) hr
    · split at h <;> simp at h
  · intro h
    split
    · rename_i r' hr
      rw [selects_unique h (List.find?_some (p := fun r => CmdRow.selects r w) hr)]
    · rename_i hn
      exact absurd h (by simpa using List.find?_eq_none.1 hn r (mem_cmdRows r))

theorem decodeCommand_eq_some {w : Word} {i : Instr} :
    decodeCommand w = some i ↔ ∃ r : CmdRow, r.selects w = true ∧ i = r.instr w := by
  unfold decodeCommand
  constructor
  · intro h
    split at h
    · exact ⟨_, decodeRow_eq_row.1 ‹_›, (Option.some.inj h).symm⟩
    · simp at h
    · simp at h
  · rintro ⟨r, hr, rfl⟩
    rw [decodeRow_eq_row.2 hr]

theorem decodeCommand_eq_none {w : Word} : decodeCommand w = none ↔ ∀ r : CmdRow, r.selects w = false := by
  constructor
  · intro h r
    by_contra hr
    simp [decodeCommand_eq_some.2 ⟨r, by simpa using hr, rfl⟩] at h
  · intro h
    cases hd : decodeCommand w with
    | none => rfl
    | some i => obtain ⟨r, hr, -⟩ := decodeCommand_eq_some.1 hd; simp [h r] at hr

end Sys2Proof
end

