-- ==== Sys2Proof/Laws/State.lean ====
section
/-! SUPPORT. One lemma per field per named update of the state (Machine/Ops.lean), so that no proof unfolds an update. -/

namespace Sys2Proof.Machine

/-! ### setErr -/

@[simp] theorem State.setErr_params (s : State) (e : ErrCode) : (s.setErr e).params = s.params := rfl
@[simp] theorem State.setErr_sched (s : State) (e : ErrCode) : (s.setErr e).sched = s.sched := rfl
@[simp] theorem State.setErr_err (s : State) (e : ErrCode) : (s.setErr e).err = e := rfl
@[simp] theorem State.setErr_sinkErr (s : State) (e : ErrCode) : (s.setErr e).sinkErr = s.sinkErr := rfl
@[simp] theorem State.setErr_cancelled (s : State) (e : ErrCode) : (s.setErr e).cancelled = s.cancelled := rfl
@[simp] theorem State.setErr_config (s : State) (e : ErrCode) : (s.setErr e).config = s.config := rfl
@[simp] theorem State.setErr_bps (s : State) (e : ErrCode) : (s.setErr e).bps = s.bps := rfl
@[simp] theorem State.setErr_len (s : State) (e : ErrCode) : (s.setErr e).len = s.len := rfl
@[simp] theorem State.setErr_index (s : State) (e : ErrCode) : (s.setErr e).index = s.index := rfl
@[simp] theorem State.setErr_total (s : State) (e : ErrCode) : (s.setErr e).total = s.total := rfl
@[simp] theorem State.setErr_period (s : State) (e : ErrCode) : (s.setErr e).period = s.period := rfl
@[simp] theorem State.setErr_codecRes (s : State) (e : ErrCode) : (s.setErr e).codecRes = s.codecRes := rfl
@[simp] theorem State.setErr_lvlOut (s : State) (e : ErrCode) : (s.setErr e).lvlOut = s.lvlOut := rfl
@[simp] theorem State.setErr_clkOut (s : State) (e : ErrCode) : (s.setErr e).clkOut = s.clkOut := rfl
@[simp] theorem State.setErr_payload (s : State) (e : ErrCode) : (s.setErr e).payload = s.payload := rfl
@[simp] theorem State.setErr_now (s : State) (e : ErrCode) : (s.setErr e).now = s.now := rfl
@[simp] theorem State.setErr_levels (s : State) (e : ErrCode) : (s.setErr e).levels = s.levels := rfl
@[simp] theorem State.setErr_phase (s : State) (e : ErrCode) : (s.setErr e).phase = s.phase := rfl
@[simp] theorem State.setErr_due (s : State) (e : ErrCode) : (s.setErr e).due = s.due := rfl
@[simp] theorem State.setErr_last (s : State) (e : ErrCode) : (s.setErr e).last = s.last := rfl
@[simp] theorem State.setErr_haveLast (s : State) (e : ErrCode) : (s.setErr e).haveLast = s.haveLast := rfl
@[simp] theorem State.setErr_evValid (s : State) (e : ErrCode) : (s.setErr e).evValid = s.evValid := rfl
@[simp] theorem State.setErr_evLevel (s : State) (e : ErrCode) : (s.setErr e).evLevel = s.evLevel := rfl
@[simp] theorem State.setErr_evClk (s : State) (e : ErrCode) : (s.setErr e).evClk = s.evClk := rfl
@[simp] theorem State.setErr_evFire (s : State) (e : ErrCode) : (s.setErr e).evFire = s.evFire := rfl
@[simp] theorem State.setErr_event (s : State) (e : ErrCode) : (s.setErr e).event = s.event := rfl
@[simp] theorem State.setErr_hrdata (s : State) (e : ErrCode) : (s.setErr e).hrdata = s.hrdata := rfl
@[simp] theorem State.setErr_host (s : State) (e : ErrCode) : (s.setErr e).host = s.host := rfl
@[simp] theorem State.setErr_sink (s : State) (e : ErrCode) : (s.setErr e).sink = s.sink := rfl
@[simp] theorem State.setErr_draws (s : State) (e : ErrCode) : (s.setErr e).draws = s.draws := rfl

/-! ### setConfig -/

@[simp] theorem State.setConfig_params (s : State) (v : BitVec 5) : (s.setConfig v).params = s.params := rfl
@[simp] theorem State.setConfig_sched (s : State) (v : BitVec 5) : (s.setConfig v).sched = s.sched := rfl
@[simp] theorem State.setConfig_err (s : State) (v : BitVec 5) : (s.setConfig v).err = s.err := rfl
@[simp] theorem State.setConfig_sinkErr (s : State) (v : BitVec 5) : (s.setConfig v).sinkErr = s.sinkErr := rfl
@[simp] theorem State.setConfig_cancelled (s : State) (v : BitVec 5) : (s.setConfig v).cancelled = s.cancelled := rfl
@[simp] theorem State.setConfig_config (s : State) (v : BitVec 5) : (s.setConfig v).config = v := rfl
@[simp] theorem State.setConfig_bps (s : State) (v : BitVec 5) : (s.setConfig v).bps = s.bps := rfl
@[simp] theorem State.setConfig_len (s : State) (v : BitVec 5) : (s.setConfig v).len = s.len := rfl
@[simp] theorem State.setConfig_index (s : State) (v : BitVec 5) : (s.setConfig v).index = s.index := rfl
@[simp] theorem State.setConfig_total (s : State) (v : BitVec 5) : (s.setConfig v).total = s.total := rfl
@[simp] theorem State.setConfig_period (s : State) (v : BitVec 5) : (s.setConfig v).period = s.period := rfl
@[simp] theorem State.setConfig_codecRes (s : State) (v : BitVec 5) : (s.setConfig v).codecRes = s.codecRes := rfl
@[simp] theorem State.setConfig_lvlOut (s : State) (v : BitVec 5) : (s.setConfig v).lvlOut = s.lvlOut := rfl
@[simp] theorem State.setConfig_clkOut (s : State) (v : BitVec 5) : (s.setConfig v).clkOut = s.clkOut := rfl
@[simp] theorem State.setConfig_payload (s : State) (v : BitVec 5) : (s.setConfig v).payload = s.payload := rfl
@[simp] theorem State.setConfig_now (s : State) (v : BitVec 5) : (s.setConfig v).now = s.now := rfl
@[simp] theorem State.setConfig_levels (s : State) (v : BitVec 5) : (s.setConfig v).levels = s.levels := rfl
@[simp] theorem State.setConfig_phase (s : State) (v : BitVec 5) : (s.setConfig v).phase = s.phase := rfl
@[simp] theorem State.setConfig_due (s : State) (v : BitVec 5) : (s.setConfig v).due = s.due := rfl
@[simp] theorem State.setConfig_last (s : State) (v : BitVec 5) : (s.setConfig v).last = s.last := rfl
@[simp] theorem State.setConfig_haveLast (s : State) (v : BitVec 5) : (s.setConfig v).haveLast = s.haveLast := rfl
@[simp] theorem State.setConfig_evValid (s : State) (v : BitVec 5) : (s.setConfig v).evValid = s.evValid := rfl
@[simp] theorem State.setConfig_evLevel (s : State) (v : BitVec 5) : (s.setConfig v).evLevel = s.evLevel := rfl
@[simp] theorem State.setConfig_evClk (s : State) (v : BitVec 5) : (s.setConfig v).evClk = s.evClk := rfl
@[simp] theorem State.setConfig_evFire (s : State) (v : BitVec 5) : (s.setConfig v).evFire = s.evFire := rfl
@[simp] theorem State.setConfig_event (s : State) (v : BitVec 5) : (s.setConfig v).event = s.event := rfl
@[simp] theorem State.setConfig_hrdata (s : State) (v : BitVec 5) : (s.setConfig v).hrdata = s.hrdata := rfl
@[simp] theorem State.setConfig_host (s : State) (v : BitVec 5) : (s.setConfig v).host = s.host := rfl
@[simp] theorem State.setConfig_sink (s : State) (v : BitVec 5) : (s.setConfig v).sink = s.sink := rfl
@[simp] theorem State.setConfig_draws (s : State) (v : BitVec 5) : (s.setConfig v).draws = s.draws := rfl

/-! ### setBps -/

@[simp] theorem State.setBps_params (s : State) (v : Word) : (s.setBps v).params = s.params := rfl
@[simp] theorem State.setBps_sched (s : State) (v : Word) : (s.setBps v).sched = s.sched := rfl
@[simp] theorem State.setBps_err (s : State) (v : Word) : (s.setBps v).err = s.err := rfl
@[simp] theorem State.setBps_sinkErr (s : State) (v : Word) : (s.setBps v).sinkErr = s.sinkErr := rfl
@[simp] theorem State.setBps_cancelled (s : State) (v : Word) : (s.setBps v).cancelled = s.cancelled := rfl
@[simp] theorem State.setBps_config (s : State) (v : Word) : (s.setBps v).config = s.config := rfl
@[simp] theorem State.setBps_bps (s : State) (v : Word) : (s.setBps v).bps = v := rfl
@[simp] theorem State.setBps_len (s : State) (v : Word) : (s.setBps v).len = s.len := rfl
@[simp] theorem State.setBps_index (s : State) (v : Word) : (s.setBps v).index = s.index := rfl
@[simp] theorem State.setBps_total (s : State) (v : Word) : (s.setBps v).total = s.total := rfl
@[simp] theorem State.setBps_period (s : State) (v : Word) : (s.setBps v).period = s.period := rfl
@[simp] theorem State.setBps_codecRes (s : State) (v : Word) : (s.setBps v).codecRes = s.codecRes := rfl
@[simp] theorem State.setBps_lvlOut (s : State) (v : Word) : (s.setBps v).lvlOut = s.lvlOut := rfl
@[simp] theorem State.setBps_clkOut (s : State) (v : Word) : (s.setBps v).clkOut = s.clkOut := rfl
@[simp] theorem State.setBps_payload (s : State) (v : Word) : (s.setBps v).payload = s.payload := rfl
@[simp] theorem State.setBps_now (s : State) (v : Word) : (s.setBps v).now = s.now := rfl
@[simp] theorem State.setBps_levels (s : State) (v : Word) : (s.setBps v).levels = s.levels := rfl
@[simp] theorem State.setBps_phase (s : State) (v : Word) : (s.setBps v).phase = s.phase := rfl
@[simp] theorem State.setBps_due (s : State) (v : Word) : (s.setBps v).due = s.due := rfl
@[simp] theorem State.setBps_last (s : State) (v : Word) : (s.setBps v).last = s.last := rfl
@[simp] theorem State.setBps_haveLast (s : State) (v : Word) : (s.setBps v).haveLast = s.haveLast := rfl
@[simp] theorem State.setBps_evValid (s : State) (v : Word) : (s.setBps v).evValid = s.evValid := rfl
@[simp] theorem State.setBps_evLevel (s : State) (v : Word) : (s.setBps v).evLevel = s.evLevel := rfl
@[simp] theorem State.setBps_evClk (s : State) (v : Word) : (s.setBps v).evClk = s.evClk := rfl
@[simp] theorem State.setBps_evFire (s : State) (v : Word) : (s.setBps v).evFire = s.evFire := rfl
@[simp] theorem State.setBps_event (s : State) (v : Word) : (s.setBps v).event = s.event := rfl
@[simp] theorem State.setBps_hrdata (s : State) (v : Word) : (s.setBps v).hrdata = s.hrdata := rfl
@[simp] theorem State.setBps_host (s : State) (v : Word) : (s.setBps v).host = s.host := rfl
@[simp] theorem State.setBps_sink (s : State) (v : Word) : (s.setBps v).sink = s.sink := rfl
@[simp] theorem State.setBps_draws (s : State) (v : Word) : (s.setBps v).draws = s.draws := rfl

/-! ### setLen -/

@[simp] theorem State.setLen_params (s : State) (v : Word) : (s.setLen v).params = s.params := rfl
@[simp] theorem State.setLen_sched (s : State) (v : Word) : (s.setLen v).sched = s.sched := rfl
@[simp] theorem State.setLen_err (s : State) (v : Word) : (s.setLen v).err = s.err := rfl
@[simp] theorem State.setLen_sinkErr (s : State) (v : Word) : (s.setLen v).sinkErr = s.sinkErr := rfl
@[simp] theorem State.setLen_cancelled (s : State) (v : Word) : (s.setLen v).cancelled = s.cancelled := rfl
@[simp] theorem State.setLen_config (s : State) (v : Word) : (s.setLen v).config = s.config := rfl
@[simp] theorem State.setLen_bps (s : State) (v : Word) : (s.setLen v).bps = s.bps := rfl
@[simp] theorem State.setLen_len (s : State) (v : Word) : (s.setLen v).len = v := rfl
@[simp] theorem State.setLen_index (s : State) (v : Word) : (s.setLen v).index = s.index := rfl
@[simp] theorem State.setLen_total (s : State) (v : Word) : (s.setLen v).total = s.total := rfl
@[simp] theorem State.setLen_period (s : State) (v : Word) : (s.setLen v).period = s.period := rfl
@[simp] theorem State.setLen_codecRes (s : State) (v : Word) : (s.setLen v).codecRes = s.codecRes := rfl
@[simp] theorem State.setLen_lvlOut (s : State) (v : Word) : (s.setLen v).lvlOut = s.lvlOut := rfl
@[simp] theorem State.setLen_clkOut (s : State) (v : Word) : (s.setLen v).clkOut = s.clkOut := rfl
@[simp] theorem State.setLen_payload (s : State) (v : Word) : (s.setLen v).payload = s.payload := rfl
@[simp] theorem State.setLen_now (s : State) (v : Word) : (s.setLen v).now = s.now := rfl
@[simp] theorem State.setLen_levels (s : State) (v : Word) : (s.setLen v).levels = s.levels := rfl
@[simp] theorem State.setLen_phase (s : State) (v : Word) : (s.setLen v).phase = s.phase := rfl
@[simp] theorem State.setLen_due (s : State) (v : Word) : (s.setLen v).due = s.due := rfl
@[simp] theorem State.setLen_last (s : State) (v : Word) : (s.setLen v).last = s.last := rfl
@[simp] theorem State.setLen_haveLast (s : State) (v : Word) : (s.setLen v).haveLast = s.haveLast := rfl
@[simp] theorem State.setLen_evValid (s : State) (v : Word) : (s.setLen v).evValid = s.evValid := rfl
@[simp] theorem State.setLen_evLevel (s : State) (v : Word) : (s.setLen v).evLevel = s.evLevel := rfl
@[simp] theorem State.setLen_evClk (s : State) (v : Word) : (s.setLen v).evClk = s.evClk := rfl
@[simp] theorem State.setLen_evFire (s : State) (v : Word) : (s.setLen v).evFire = s.evFire := rfl
@[simp] theorem State.setLen_event (s : State) (v : Word) : (s.setLen v).event = s.event := rfl
@[simp] theorem State.setLen_hrdata (s : State) (v : Word) : (s.setLen v).hrdata = s.hrdata := rfl
@[simp] theorem State.setLen_host (s : State) (v : Word) : (s.setLen v).host = s.host := rfl
@[simp] theorem State.setLen_sink (s : State) (v : Word) : (s.setLen v).sink = s.sink := rfl
@[simp] theorem State.setLen_draws (s : State) (v : Word) : (s.setLen v).draws = s.draws := rfl

/-! ### setPayload -/

@[simp] theorem State.setPayload_params (s : State) (k : Nat) (v : Byte) : (s.setPayload k v).params = s.params := rfl
@[simp] theorem State.setPayload_sched (s : State) (k : Nat) (v : Byte) : (s.setPayload k v).sched = s.sched := rfl
@[simp] theorem State.setPayload_err (s : State) (k : Nat) (v : Byte) : (s.setPayload k v).err = s.err := rfl
@[simp] theorem State.setPayload_sinkErr (s : State) (k : Nat) (v : Byte) : (s.setPayload k v).sinkErr = s.sinkErr := rfl
@[simp] theorem State.setPayload_cancelled (s : State) (k : Nat) (v : Byte) : (s.setPayload k v).cancelled = s.cancelled := rfl
@[simp] theorem State.setPayload_config (s : State) (k : Nat) (v : Byte) : (s.setPayload k v).config = s.config := rfl
@[simp] theorem State.setPayload_bps (s : State) (k : Nat) (v : Byte) : (s.setPayload k v).bps = s.bps := rfl
@[simp] theorem State.setPayload_len (s : State) (k : Nat) (v : Byte) : (s.setPayload k v).len = s.len := rfl
@[simp] theorem State.setPayload_index (s : State) (k : Nat) (v : Byte) : (s.setPayload k v).index = s.index := rfl
@[simp] theorem State.setPayload_total (s : State) (k : Nat) (v : Byte) : (s.setPayload k v).total = s.total := rfl
@[simp] theorem State.setPayload_period (s : State) (k : Nat) (v : Byte) : (s.setPayload k v).period = s.period := rfl
@[simp] theorem State.setPayload_codecRes (s : State) (k : Nat) (v : Byte) : (s.setPayload k v).codecRes = s.codecRes := rfl
@[simp] theorem State.setPayload_lvlOut (s : State) (k : Nat) (v : Byte) : (s.setPayload k v).lvlOut = s.lvlOut := rfl
@[simp] theorem State.setPayload_clkOut (s : State) (k : Nat) (v : Byte) : (s.setPayload k v).clkOut = s.clkOut := rfl
@[simp] theorem State.setPayload_payload (s : State) (k : Nat) (v : Byte) : (s.setPayload k v).payload = s.payload.put (payloadAddr k) v := rfl
@[simp] theorem State.setPayload_now (s : State) (k : Nat) (v : Byte) : (s.setPayload k v).now = s.now := rfl
@[simp] theorem State.setPayload_levels (s : State) (k : Nat) (v : Byte) : (s.setPayload k v).levels = s.levels := rfl
@[simp] theorem State.setPayload_phase (s : State) (k : Nat) (v : Byte) : (s.setPayload k v).phase = s.phase := rfl
@[simp] theorem State.setPayload_due (s : State) (k : Nat) (v : Byte) : (s.setPayload k v).due = s.due := rfl
@[simp] theorem State.setPayload_last (s : State) (k : Nat) (v : Byte) : (s.setPayload k v).last = s.last := rfl
@[simp] theorem State.setPayload_haveLast (s : State) (k : Nat) (v : Byte) : (s.setPayload k v).haveLast = s.haveLast := rfl
@[simp] theorem State.setPayload_evValid (s : State) (k : Nat) (v : Byte) : (s.setPayload k v).evValid = s.evValid := rfl
@[simp] theorem State.setPayload_evLevel (s : State) (k : Nat) (v : Byte) : (s.setPayload k v).evLevel = s.evLevel := rfl
@[simp] theorem State.setPayload_evClk (s : State) (k : Nat) (v : Byte) : (s.setPayload k v).evClk = s.evClk := rfl
@[simp] theorem State.setPayload_evFire (s : State) (k : Nat) (v : Byte) : (s.setPayload k v).evFire = s.evFire := rfl
@[simp] theorem State.setPayload_event (s : State) (k : Nat) (v : Byte) : (s.setPayload k v).event = s.event := rfl
@[simp] theorem State.setPayload_hrdata (s : State) (k : Nat) (v : Byte) : (s.setPayload k v).hrdata = s.hrdata := rfl
@[simp] theorem State.setPayload_host (s : State) (k : Nat) (v : Byte) : (s.setPayload k v).host = s.host := rfl
@[simp] theorem State.setPayload_sink (s : State) (k : Nat) (v : Byte) : (s.setPayload k v).sink = s.sink := rfl
@[simp] theorem State.setPayload_draws (s : State) (k : Nat) (v : Byte) : (s.setPayload k v).draws = s.draws := rfl

/-! ### setCodecRes -/

@[simp] theorem State.setCodecRes_params (s : State) (v : Word) : (s.setCodecRes v).params = s.params := rfl
@[simp] theorem State.setCodecRes_sched (s : State) (v : Word) : (s.setCodecRes v).sched = s.sched := rfl
@[simp] theorem State.setCodecRes_err (s : State) (v : Word) : (s.setCodecRes v).err = s.err := rfl
@[simp] theorem State.setCodecRes_sinkErr (s : State) (v : Word) : (s.setCodecRes v).sinkErr = s.sinkErr := rfl
@[simp] theorem State.setCodecRes_cancelled (s : State) (v : Word) : (s.setCodecRes v).cancelled = s.cancelled := rfl
@[simp] theorem State.setCodecRes_config (s : State) (v : Word) : (s.setCodecRes v).config = s.config := rfl
@[simp] theorem State.setCodecRes_bps (s : State) (v : Word) : (s.setCodecRes v).bps = s.bps := rfl
@[simp] theorem State.setCodecRes_len (s : State) (v : Word) : (s.setCodecRes v).len = s.len := rfl
@[simp] theorem State.setCodecRes_index (s : State) (v : Word) : (s.setCodecRes v).index = s.index := rfl
@[simp] theorem State.setCodecRes_total (s : State) (v : Word) : (s.setCodecRes v).total = s.total := rfl
@[simp] theorem State.setCodecRes_period (s : State) (v : Word) : (s.setCodecRes v).period = s.period := rfl
@[simp] theorem State.setCodecRes_codecRes (s : State) (v : Word) : (s.setCodecRes v).codecRes = v := rfl
@[simp] theorem State.setCodecRes_lvlOut (s : State) (v : Word) : (s.setCodecRes v).lvlOut = s.lvlOut := rfl
@[simp] theorem State.setCodecRes_clkOut (s : State) (v : Word) : (s.setCodecRes v).clkOut = s.clkOut := rfl
@[simp] theorem State.setCodecRes_payload (s : State) (v : Word) : (s.setCodecRes v).payload = s.payload := rfl
@[simp] theorem State.setCodecRes_now (s : State) (v : Word) : (s.setCodecRes v).now = s.now := rfl
@[simp] theorem State.setCodecRes_levels (s : State) (v : Word) : (s.setCodecRes v).levels = s.levels := rfl
@[simp] theorem State.setCodecRes_phase (s : State) (v : Word) : (s.setCodecRes v).phase = s.phase := rfl
@[simp] theorem State.setCodecRes_due (s : State) (v : Word) : (s.setCodecRes v).due = s.due := rfl
@[simp] theorem State.setCodecRes_last (s : State) (v : Word) : (s.setCodecRes v).last = s.last := rfl
@[simp] theorem State.setCodecRes_haveLast (s : State) (v : Word) : (s.setCodecRes v).haveLast = s.haveLast := rfl
@[simp] theorem State.setCodecRes_evValid (s : State) (v : Word) : (s.setCodecRes v).evValid = s.evValid := rfl
@[simp] theorem State.setCodecRes_evLevel (s : State) (v : Word) : (s.setCodecRes v).evLevel = s.evLevel := rfl
@[simp] theorem State.setCodecRes_evClk (s : State) (v : Word) : (s.setCodecRes v).evClk = s.evClk := rfl
@[simp] theorem State.setCodecRes_evFire (s : State) (v : Word) : (s.setCodecRes v).evFire = s.evFire := rfl
@[simp] theorem State.setCodecRes_event (s : State) (v : Word) : (s.setCodecRes v).event = s.event := rfl
@[simp] theorem State.setCodecRes_hrdata (s : State) (v : Word) : (s.setCodecRes v).hrdata = s.hrdata := rfl
@[simp] theorem State.setCodecRes_host (s : State) (v : Word) : (s.setCodecRes v).host = s.host := rfl
@[simp] theorem State.setCodecRes_sink (s : State) (v : Word) : (s.setCodecRes v).sink = s.sink := rfl
@[simp] theorem State.setCodecRes_draws (s : State) (v : Word) : (s.setCodecRes v).draws = s.draws := rfl

/-! ### setHrdata -/

@[simp] theorem State.setHrdata_params (s : State) (v : Word) : (s.setHrdata v).params = s.params := rfl
@[simp] theorem State.setHrdata_sched (s : State) (v : Word) : (s.setHrdata v).sched = s.sched := rfl
@[simp] theorem State.setHrdata_err (s : State) (v : Word) : (s.setHrdata v).err = s.err := rfl
@[simp] theorem State.setHrdata_sinkErr (s : State) (v : Word) : (s.setHrdata v).sinkErr = s.sinkErr := rfl
@[simp] theorem State.setHrdata_cancelled (s : State) (v : Word) : (s.setHrdata v).cancelled = s.cancelled := rfl
@[simp] theorem State.setHrdata_config (s : State) (v : Word) : (s.setHrdata v).config = s.config := rfl
@[simp] theorem State.setHrdata_bps (s : State) (v : Word) : (s.setHrdata v).bps = s.bps := rfl
@[simp] theorem State.setHrdata_len (s : State) (v : Word) : (s.setHrdata v).len = s.len := rfl
@[simp] theorem State.setHrdata_index (s : State) (v : Word) : (s.setHrdata v).index = s.index := rfl
@[simp] theorem State.setHrdata_total (s : State) (v : Word) : (s.setHrdata v).total = s.total := rfl
@[simp] theorem State.setHrdata_period (s : State) (v : Word) : (s.setHrdata v).period = s.period := rfl
@[simp] theorem State.setHrdata_codecRes (s : State) (v : Word) : (s.setHrdata v).codecRes = s.codecRes := rfl
@[simp] theorem State.setHrdata_lvlOut (s : State) (v : Word) : (s.setHrdata v).lvlOut = s.lvlOut := rfl
@[simp] theorem State.setHrdata_clkOut (s : State) (v : Word) : (s.setHrdata v).clkOut = s.clkOut := rfl
@[simp] theorem State.setHrdata_payload (s : State) (v : Word) : (s.setHrdata v).payload = s.payload := rfl
@[simp] theorem State.setHrdata_now (s : State) (v : Word) : (s.setHrdata v).now = s.now := rfl
@[simp] theorem State.setHrdata_levels (s : State) (v : Word) : (s.setHrdata v).levels = s.levels := rfl
@[simp] theorem State.setHrdata_phase (s : State) (v : Word) : (s.setHrdata v).phase = s.phase := rfl
@[simp] theorem State.setHrdata_due (s : State) (v : Word) : (s.setHrdata v).due = s.due := rfl
@[simp] theorem State.setHrdata_last (s : State) (v : Word) : (s.setHrdata v).last = s.last := rfl
@[simp] theorem State.setHrdata_haveLast (s : State) (v : Word) : (s.setHrdata v).haveLast = s.haveLast := rfl
@[simp] theorem State.setHrdata_evValid (s : State) (v : Word) : (s.setHrdata v).evValid = s.evValid := rfl
@[simp] theorem State.setHrdata_evLevel (s : State) (v : Word) : (s.setHrdata v).evLevel = s.evLevel := rfl
@[simp] theorem State.setHrdata_evClk (s : State) (v : Word) : (s.setHrdata v).evClk = s.evClk := rfl
@[simp] theorem State.setHrdata_evFire (s : State) (v : Word) : (s.setHrdata v).evFire = s.evFire := rfl
@[simp] theorem State.setHrdata_event (s : State) (v : Word) : (s.setHrdata v).event = s.event := rfl
@[simp] theorem State.setHrdata_hrdata (s : State) (v : Word) : (s.setHrdata v).hrdata = some v := rfl
@[simp] theorem State.setHrdata_host (s : State) (v : Word) : (s.setHrdata v).host = s.host := rfl
@[simp] theorem State.setHrdata_sink (s : State) (v : Word) : (s.setHrdata v).sink = s.sink := rfl
@[simp] theorem State.setHrdata_draws (s : State) (v : Word) : (s.setHrdata v).draws = s.draws := rfl

/-! ### beginTransmission -/

@[simp] theorem State.beginTransmission_params (s : State) (ls : List Level) (p : Word) : (s.beginTransmission ls p).params = s.params := rfl
@[simp] theorem State.beginTransmission_sched (s : State) (ls : List Level) (p : Word) : (s.beginTransmission ls p).sched = .running := rfl
@[simp] theorem State.beginTransmission_err (s : State) (ls : List Level) (p : Word) : (s.beginTransmission ls p).err = s.err := rfl
@[simp] theorem State.beginTransmission_sinkErr (s : State) (ls : List Level) (p : Word) : (s.beginTransmission ls p).sinkErr = false := rfl
@[simp] theorem State.beginTransmission_cancelled (s : State) (ls : List Level) (p : Word) : (s.beginTransmission ls p).cancelled = false := rfl
@[simp] theorem State.beginTransmission_config (s : State) (ls : List Level) (p : Word) : (s.beginTransmission ls p).config = s.config := rfl
@[simp] theorem State.beginTransmission_bps (s : State) (ls : List Level) (p : Word) : (s.beginTransmission ls p).bps = s.bps := rfl
@[simp] theorem State.beginTransmission_len (s : State) (ls : List Level) (p : Word) : (s.beginTransmission ls p).len = s.len := rfl
@[simp] theorem State.beginTransmission_index (s : State) (ls : List Level) (p : Word) : (s.beginTransmission ls p).index = 0 := rfl
@[simp] theorem State.beginTransmission_total (s : State) (ls : List Level) (p : Word) : (s.beginTransmission ls p).total = BitVec.ofNat 32 ls.length := rfl
@[simp] theorem State.beginTransmission_period (s : State) (ls : List Level) (p : Word) : (s.beginTransmission ls p).period = p := rfl
@[simp] theorem State.beginTransmission_codecRes (s : State) (ls : List Level) (p : Word) : (s.beginTransmission ls p).codecRes = s.codecRes := rfl
@[simp] theorem State.beginTransmission_lvlOut (s : State) (ls : List Level) (p : Word) : (s.beginTransmission ls p).lvlOut = s.lvlOut := rfl
@[simp] theorem State.beginTransmission_clkOut (s : State) (ls : List Level) (p : Word) : (s.beginTransmission ls p).clkOut = s.clkOut := rfl
@[simp] theorem State.beginTransmission_payload (s : State) (ls : List Level) (p : Word) : (s.beginTransmission ls p).payload = s.payload := rfl
@[simp] theorem State.beginTransmission_now (s : State) (ls : List Level) (p : Word) : (s.beginTransmission ls p).now = s.now := rfl
@[simp] theorem State.beginTransmission_levels (s : State) (ls : List Level) (p : Word) : (s.beginTransmission ls p).levels = ls := rfl
@[simp] theorem State.beginTransmission_phase (s : State) (ls : List Level) (p : Word) : (s.beginTransmission ls p).phase = .offer := rfl
@[simp] theorem State.beginTransmission_due (s : State) (ls : List Level) (p : Word) : (s.beginTransmission ls p).due = s.due := rfl
@[simp] theorem State.beginTransmission_last (s : State) (ls : List Level) (p : Word) : (s.beginTransmission ls p).last = s.last := rfl
@[simp] theorem State.beginTransmission_haveLast (s : State) (ls : List Level) (p : Word) : (s.beginTransmission ls p).haveLast = false := rfl
@[simp] theorem State.beginTransmission_evValid (s : State) (ls : List Level) (p : Word) : (s.beginTransmission ls p).evValid = s.evValid := rfl
@[simp] theorem State.beginTransmission_evLevel (s : State) (ls : List Level) (p : Word) : (s.beginTransmission ls p).evLevel = s.evLevel := rfl
@[simp] theorem State.beginTransmission_evClk (s : State) (ls : List Level) (p : Word) : (s.beginTransmission ls p).evClk = s.evClk := rfl
@[simp] theorem State.beginTransmission_evFire (s : State) (ls : List Level) (p : Word) : (s.beginTransmission ls p).evFire = s.evFire := rfl
@[simp] theorem State.beginTransmission_event (s : State) (ls : List Level) (p : Word) : (s.beginTransmission ls p).event = s.event := rfl
@[simp] theorem State.beginTransmission_hrdata (s : State) (ls : List Level) (p : Word) : (s.beginTransmission ls p).hrdata = s.hrdata := rfl
@[simp] theorem State.beginTransmission_host (s : State) (ls : List Level) (p : Word) : (s.beginTransmission ls p).host = s.host := rfl
@[simp] theorem State.beginTransmission_sink (s : State) (ls : List Level) (p : Word) : (s.beginTransmission ls p).sink = s.sink := rfl
@[simp] theorem State.beginTransmission_draws (s : State) (ls : List Level) (p : Word) : (s.beginTransmission ls p).draws = s.draws := rfl

/-! ### cancelTransmission -/

@[simp] theorem State.cancelTransmission_params (s : State) : (s.cancelTransmission).params = s.params := rfl
@[simp] theorem State.cancelTransmission_sched (s : State) : (s.cancelTransmission).sched = .done := rfl
@[simp] theorem State.cancelTransmission_err (s : State) : (s.cancelTransmission).err = s.err := rfl
@[simp] theorem State.cancelTransmission_sinkErr (s : State) : (s.cancelTransmission).sinkErr = s.sinkErr := rfl
@[simp] theorem State.cancelTransmission_cancelled (s : State) : (s.cancelTransmission).cancelled = true := rfl
@[simp] theorem State.cancelTransmission_config (s : State) : (s.cancelTransmission).config = s.config := rfl
@[simp] theorem State.cancelTransmission_bps (s : State) : (s.cancelTransmission).bps = s.bps := rfl
@[simp] theorem State.cancelTransmission_len (s : State) : (s.cancelTransmission).len = s.len := rfl
@[simp] theorem State.cancelTransmission_index (s : State) : (s.cancelTransmission).index = s.index := rfl
@[simp] theorem State.cancelTransmission_total (s : State) : (s.cancelTransmission).total = s.total := rfl
@[simp] theorem State.cancelTransmission_period (s : State) : (s.cancelTransmission).period = s.period := rfl
@[simp] theorem State.cancelTransmission_codecRes (s : State) : (s.cancelTransmission).codecRes = s.codecRes := rfl
@[simp] theorem State.cancelTransmission_lvlOut (s : State) : (s.cancelTransmission).lvlOut = s.lvlOut := rfl
@[simp] theorem State.cancelTransmission_clkOut (s : State) : (s.cancelTransmission).clkOut = s.clkOut := rfl
@[simp] theorem State.cancelTransmission_payload (s : State) : (s.cancelTransmission).payload = s.payload := rfl
@[simp] theorem State.cancelTransmission_now (s : State) : (s.cancelTransmission).now = s.now := rfl
@[simp] theorem State.cancelTransmission_levels (s : State) : (s.cancelTransmission).levels = s.levels := rfl
@[simp] theorem State.cancelTransmission_phase (s : State) : (s.cancelTransmission).phase = s.phase := rfl
@[simp] theorem State.cancelTransmission_due (s : State) : (s.cancelTransmission).due = s.due := rfl
@[simp] theorem State.cancelTransmission_last (s : State) : (s.cancelTransmission).last = s.last := rfl
@[simp] theorem State.cancelTransmission_haveLast (s : State) : (s.cancelTransmission).haveLast = s.haveLast := rfl
@[simp] theorem State.cancelTransmission_evValid (s : State) : (s.cancelTransmission).evValid = s.evValid := rfl
@[simp] theorem State.cancelTransmission_evLevel (s : State) : (s.cancelTransmission).evLevel = s.evLevel := rfl
@[simp] theorem State.cancelTransmission_evClk (s : State) : (s.cancelTransmission).evClk = s.evClk := rfl
@[simp] theorem State.cancelTransmission_evFire (s : State) : (s.cancelTransmission).evFire = s.evFire := rfl
@[simp] theorem State.cancelTransmission_event (s : State) : (s.cancelTransmission).event = s.event := rfl
@[simp] theorem State.cancelTransmission_hrdata (s : State) : (s.cancelTransmission).hrdata = s.hrdata := rfl
@[simp] theorem State.cancelTransmission_host (s : State) : (s.cancelTransmission).host = s.host := rfl
@[simp] theorem State.cancelTransmission_sink (s : State) : (s.cancelTransmission).sink = s.sink := rfl
@[simp] theorem State.cancelTransmission_draws (s : State) : (s.cancelTransmission).draws = s.draws := rfl

/-! ### quietPorts -/

@[simp] theorem State.quietPorts_params (s : State) : (s.quietPorts).params = s.params := rfl
@[simp] theorem State.quietPorts_sched (s : State) : (s.quietPorts).sched = s.sched := rfl
@[simp] theorem State.quietPorts_err (s : State) : (s.quietPorts).err = s.err := rfl
@[simp] theorem State.quietPorts_sinkErr (s : State) : (s.quietPorts).sinkErr = s.sinkErr := rfl
@[simp] theorem State.quietPorts_cancelled (s : State) : (s.quietPorts).cancelled = s.cancelled := rfl
@[simp] theorem State.quietPorts_config (s : State) : (s.quietPorts).config = s.config := rfl
@[simp] theorem State.quietPorts_bps (s : State) : (s.quietPorts).bps = s.bps := rfl
@[simp] theorem State.quietPorts_len (s : State) : (s.quietPorts).len = s.len := rfl
@[simp] theorem State.quietPorts_index (s : State) : (s.quietPorts).index = s.index := rfl
@[simp] theorem State.quietPorts_total (s : State) : (s.quietPorts).total = s.total := rfl
@[simp] theorem State.quietPorts_period (s : State) : (s.quietPorts).period = s.period := rfl
@[simp] theorem State.quietPorts_codecRes (s : State) : (s.quietPorts).codecRes = s.codecRes := rfl
@[simp] theorem State.quietPorts_lvlOut (s : State) : (s.quietPorts).lvlOut = s.lvlOut := rfl
@[simp] theorem State.quietPorts_clkOut (s : State) : (s.quietPorts).clkOut = s.clkOut := rfl
@[simp] theorem State.quietPorts_payload (s : State) : (s.quietPorts).payload = s.payload := rfl
@[simp] theorem State.quietPorts_now (s : State) : (s.quietPorts).now = s.now := rfl
@[simp] theorem State.quietPorts_levels (s : State) : (s.quietPorts).levels = s.levels := rfl
@[simp] theorem State.quietPorts_phase (s : State) : (s.quietPorts).phase = s.phase := rfl
@[simp] theorem State.quietPorts_due (s : State) : (s.quietPorts).due = s.due := rfl
@[simp] theorem State.quietPorts_last (s : State) : (s.quietPorts).last = s.last := rfl
@[simp] theorem State.quietPorts_haveLast (s : State) : (s.quietPorts).haveLast = s.haveLast := rfl
@[simp] theorem State.quietPorts_evValid (s : State) : (s.quietPorts).evValid = false := rfl
@[simp] theorem State.quietPorts_evLevel (s : State) : (s.quietPorts).evLevel = 0 := rfl
@[simp] theorem State.quietPorts_evClk (s : State) : (s.quietPorts).evClk = false := rfl
@[simp] theorem State.quietPorts_evFire (s : State) : (s.quietPorts).evFire = false := rfl
@[simp] theorem State.quietPorts_event (s : State) : (s.quietPorts).event = none := rfl
@[simp] theorem State.quietPorts_hrdata (s : State) : (s.quietPorts).hrdata = s.hrdata := rfl
@[simp] theorem State.quietPorts_host (s : State) : (s.quietPorts).host = s.host := rfl
@[simp] theorem State.quietPorts_sink (s : State) : (s.quietPorts).sink = s.sink := rfl
@[simp] theorem State.quietPorts_draws (s : State) : (s.quietPorts).draws = s.draws := rfl

/-! ### offerLevel -/

@[simp] theorem State.offerLevel_params (s : State) (l : Level) : (s.offerLevel l).params = s.params := rfl
@[simp] theorem State.offerLevel_sched (s : State) (l : Level) : (s.offerLevel l).sched = s.sched := rfl
@[simp] theorem State.offerLevel_err (s : State) (l : Level) : (s.offerLevel l).err = s.err := rfl
@[simp] theorem State.offerLevel_sinkErr (s : State) (l : Level) : (s.offerLevel l).sinkErr = s.sinkErr := rfl
@[simp] theorem State.offerLevel_cancelled (s : State) (l : Level) : (s.offerLevel l).cancelled = s.cancelled := rfl
@[simp] theorem State.offerLevel_config (s : State) (l : Level) : (s.offerLevel l).config = s.config := rfl
@[simp] theorem State.offerLevel_bps (s : State) (l : Level) : (s.offerLevel l).bps = s.bps := rfl
@[simp] theorem State.offerLevel_len (s : State) (l : Level) : (s.offerLevel l).len = s.len := rfl
@[simp] theorem State.offerLevel_index (s : State) (l : Level) : (s.offerLevel l).index = s.index := rfl
@[simp] theorem State.offerLevel_total (s : State) (l : Level) : (s.offerLevel l).total = s.total := rfl
@[simp] theorem State.offerLevel_period (s : State) (l : Level) : (s.offerLevel l).period = s.period := rfl
@[simp] theorem State.offerLevel_codecRes (s : State) (l : Level) : (s.offerLevel l).codecRes = s.codecRes := rfl
@[simp] theorem State.offerLevel_lvlOut (s : State) (l : Level) : (s.offerLevel l).lvlOut = s.lvlOut := rfl
@[simp] theorem State.offerLevel_clkOut (s : State) (l : Level) : (s.offerLevel l).clkOut = s.clkOut := rfl
@[simp] theorem State.offerLevel_payload (s : State) (l : Level) : (s.offerLevel l).payload = s.payload := rfl
@[simp] theorem State.offerLevel_now (s : State) (l : Level) : (s.offerLevel l).now = s.now := rfl
@[simp] theorem State.offerLevel_levels (s : State) (l : Level) : (s.offerLevel l).levels = s.levels := rfl
@[simp] theorem State.offerLevel_phase (s : State) (l : Level) : (s.offerLevel l).phase = .offer := rfl
@[simp] theorem State.offerLevel_due (s : State) (l : Level) : (s.offerLevel l).due = s.due := rfl
@[simp] theorem State.offerLevel_last (s : State) (l : Level) : (s.offerLevel l).last = s.last := rfl
@[simp] theorem State.offerLevel_haveLast (s : State) (l : Level) : (s.offerLevel l).haveLast = s.haveLast := rfl
@[simp] theorem State.offerLevel_evValid (s : State) (l : Level) : (s.offerLevel l).evValid = true := rfl
@[simp] theorem State.offerLevel_evLevel (s : State) (l : Level) : (s.offerLevel l).evLevel = l.level := rfl
@[simp] theorem State.offerLevel_evClk (s : State) (l : Level) : (s.offerLevel l).evClk = l.clk := rfl
@[simp] theorem State.offerLevel_evFire (s : State) (l : Level) : (s.offerLevel l).evFire = false := rfl
@[simp] theorem State.offerLevel_event (s : State) (l : Level) : (s.offerLevel l).event = none := rfl
@[simp] theorem State.offerLevel_hrdata (s : State) (l : Level) : (s.offerLevel l).hrdata = s.hrdata := rfl
@[simp] theorem State.offerLevel_host (s : State) (l : Level) : (s.offerLevel l).host = s.host := rfl
@[simp] theorem State.offerLevel_sink (s : State) (l : Level) : (s.offerLevel l).sink = s.sink := rfl
@[simp] theorem State.offerLevel_draws (s : State) (l : Level) : (s.offerLevel l).draws = s.draws := rfl

/-! ### emitLevel -/

@[simp] theorem State.emitLevel_params (s : State) (l : Level) (b : Bool) (d : Nat) : (s.emitLevel l b d).params = s.params := rfl
@[simp] theorem State.emitLevel_sched (s : State) (l : Level) (b : Bool) (d : Nat) : (s.emitLevel l b d).sched = s.sched := rfl
@[simp] theorem State.emitLevel_err (s : State) (l : Level) (b : Bool) (d : Nat) : (s.emitLevel l b d).err = s.err := rfl
@[simp] theorem State.emitLevel_sinkErr (s : State) (l : Level) (b : Bool) (d : Nat) : (s.emitLevel l b d).sinkErr = (s.sinkErr || b) := rfl
@[simp] theorem State.emitLevel_cancelled (s : State) (l : Level) (b : Bool) (d : Nat) : (s.emitLevel l b d).cancelled = s.cancelled := rfl
@[simp] theorem State.emitLevel_config (s : State) (l : Level) (b : Bool) (d : Nat) : (s.emitLevel l b d).config = s.config := rfl
@[simp] theorem State.emitLevel_bps (s : State) (l : Level) (b : Bool) (d : Nat) : (s.emitLevel l b d).bps = s.bps := rfl
@[simp] theorem State.emitLevel_len (s : State) (l : Level) (b : Bool) (d : Nat) : (s.emitLevel l b d).len = s.len := rfl
@[simp] theorem State.emitLevel_index (s : State) (l : Level) (b : Bool) (d : Nat) : (s.emitLevel l b d).index = s.index + 1 := rfl
@[simp] theorem State.emitLevel_total (s : State) (l : Level) (b : Bool) (d : Nat) : (s.emitLevel l b d).total = s.total := rfl
@[simp] theorem State.emitLevel_period (s : State) (l : Level) (b : Bool) (d : Nat) : (s.emitLevel l b d).period = s.period := rfl
@[simp] theorem State.emitLevel_codecRes (s : State) (l : Level) (b : Bool) (d : Nat) : (s.emitLevel l b d).codecRes = s.codecRes := rfl
@[simp] theorem State.emitLevel_lvlOut (s : State) (l : Level) (b : Bool) (d : Nat) : (s.emitLevel l b d).lvlOut = l.level := rfl
@[simp] theorem State.emitLevel_clkOut (s : State) (l : Level) (b : Bool) (d : Nat) : (s.emitLevel l b d).clkOut = l.clk := rfl
@[simp] theorem State.emitLevel_payload (s : State) (l : Level) (b : Bool) (d : Nat) : (s.emitLevel l b d).payload = s.payload := rfl
@[simp] theorem State.emitLevel_now (s : State) (l : Level) (b : Bool) (d : Nat) : (s.emitLevel l b d).now = s.now := rfl
@[simp] theorem State.emitLevel_levels (s : State) (l : Level) (b : Bool) (d : Nat) : (s.emitLevel l b d).levels = s.levels := rfl
@[simp] theorem State.emitLevel_phase (s : State) (l : Level) (b : Bool) (d : Nat) : (s.emitLevel l b d).phase = .wait := rfl
@[simp] theorem State.emitLevel_due (s : State) (l : Level) (b : Bool) (d : Nat) : (s.emitLevel l b d).due = s.now + max d 1 := rfl
@[simp] theorem State.emitLevel_last (s : State) (l : Level) (b : Bool) (d : Nat) : (s.emitLevel l b d).last = s.now := rfl
@[simp] theorem State.emitLevel_haveLast (s : State) (l : Level) (b : Bool) (d : Nat) : (s.emitLevel l b d).haveLast = true := rfl
@[simp] theorem State.emitLevel_evValid (s : State) (l : Level) (b : Bool) (d : Nat) : (s.emitLevel l b d).evValid = true := rfl
@[simp] theorem State.emitLevel_evLevel (s : State) (l : Level) (b : Bool) (d : Nat) : (s.emitLevel l b d).evLevel = l.level := rfl
@[simp] theorem State.emitLevel_evClk (s : State) (l : Level) (b : Bool) (d : Nat) : (s.emitLevel l b d).evClk = l.clk := rfl
@[simp] theorem State.emitLevel_evFire (s : State) (l : Level) (b : Bool) (d : Nat) : (s.emitLevel l b d).evFire = true := rfl
@[simp] theorem State.emitLevel_event (s : State) (l : Level) (b : Bool) (d : Nat) : (s.emitLevel l b d).event = some ⟨s.index, l.level, l.clk, s.now⟩ := rfl
@[simp] theorem State.emitLevel_hrdata (s : State) (l : Level) (b : Bool) (d : Nat) : (s.emitLevel l b d).hrdata = s.hrdata := rfl
@[simp] theorem State.emitLevel_host (s : State) (l : Level) (b : Bool) (d : Nat) : (s.emitLevel l b d).host = s.host := rfl
@[simp] theorem State.emitLevel_sink (s : State) (l : Level) (b : Bool) (d : Nat) : (s.emitLevel l b d).sink = s.sink := rfl
@[simp] theorem State.emitLevel_draws (s : State) (l : Level) (b : Bool) (d : Nat) : (s.emitLevel l b d).draws = s.draws := rfl

/-! ### finishTransmission -/

@[simp] theorem State.finishTransmission_params (s : State) : (s.finishTransmission).params = s.params := rfl
@[simp] theorem State.finishTransmission_sched (s : State) : (s.finishTransmission).sched = .done := rfl
@[simp] theorem State.finishTransmission_err (s : State) : (s.finishTransmission).err = s.err := rfl
@[simp] theorem State.finishTransmission_sinkErr (s : State) : (s.finishTransmission).sinkErr = s.sinkErr := rfl
@[simp] theorem State.finishTransmission_cancelled (s : State) : (s.finishTransmission).cancelled = s.cancelled := rfl
@[simp] theorem State.finishTransmission_config (s : State) : (s.finishTransmission).config = s.config := rfl
@[simp] theorem State.finishTransmission_bps (s : State) : (s.finishTransmission).bps = s.bps := rfl
@[simp] theorem State.finishTransmission_len (s : State) : (s.finishTransmission).len = s.len := rfl
@[simp] theorem State.finishTransmission_index (s : State) : (s.finishTransmission).index = s.index := rfl
@[simp] theorem State.finishTransmission_total (s : State) : (s.finishTransmission).total = s.total := rfl
@[simp] theorem State.finishTransmission_period (s : State) : (s.finishTransmission).period = s.period := rfl
@[simp] theorem State.finishTransmission_codecRes (s : State) : (s.finishTransmission).codecRes = s.codecRes := rfl
@[simp] theorem State.finishTransmission_lvlOut (s : State) : (s.finishTransmission).lvlOut = s.lvlOut := rfl
@[simp] theorem State.finishTransmission_clkOut (s : State) : (s.finishTransmission).clkOut = s.clkOut := rfl
@[simp] theorem State.finishTransmission_payload (s : State) : (s.finishTransmission).payload = s.payload := rfl
@[simp] theorem State.finishTransmission_now (s : State) : (s.finishTransmission).now = s.now := rfl
@[simp] theorem State.finishTransmission_levels (s : State) : (s.finishTransmission).levels = s.levels := rfl
@[simp] theorem State.finishTransmission_phase (s : State) : (s.finishTransmission).phase = s.phase := rfl
@[simp] theorem State.finishTransmission_due (s : State) : (s.finishTransmission).due = s.due := rfl
@[simp] theorem State.finishTransmission_last (s : State) : (s.finishTransmission).last = s.last := rfl
@[simp] theorem State.finishTransmission_haveLast (s : State) : (s.finishTransmission).haveLast = s.haveLast := rfl
@[simp] theorem State.finishTransmission_evValid (s : State) : (s.finishTransmission).evValid = s.evValid := rfl
@[simp] theorem State.finishTransmission_evLevel (s : State) : (s.finishTransmission).evLevel = s.evLevel := rfl
@[simp] theorem State.finishTransmission_evClk (s : State) : (s.finishTransmission).evClk = s.evClk := rfl
@[simp] theorem State.finishTransmission_evFire (s : State) : (s.finishTransmission).evFire = s.evFire := rfl
@[simp] theorem State.finishTransmission_event (s : State) : (s.finishTransmission).event = s.event := rfl
@[simp] theorem State.finishTransmission_hrdata (s : State) : (s.finishTransmission).hrdata = s.hrdata := rfl
@[simp] theorem State.finishTransmission_host (s : State) : (s.finishTransmission).host = s.host := rfl
@[simp] theorem State.finishTransmission_sink (s : State) : (s.finishTransmission).sink = s.sink := rfl
@[simp] theorem State.finishTransmission_draws (s : State) : (s.finishTransmission).draws = s.draws := rfl

/-! ### advanceNow -/

@[simp] theorem State.advanceNow_params (s : State) : (s.advanceNow).params = s.params := rfl
@[simp] theorem State.advanceNow_sched (s : State) : (s.advanceNow).sched = s.sched := rfl
@[simp] theorem State.advanceNow_err (s : State) : (s.advanceNow).err = s.err := rfl
@[simp] theorem State.advanceNow_sinkErr (s : State) : (s.advanceNow).sinkErr = s.sinkErr := rfl
@[simp] theorem State.advanceNow_cancelled (s : State) : (s.advanceNow).cancelled = s.cancelled := rfl
@[simp] theorem State.advanceNow_config (s : State) : (s.advanceNow).config = s.config := rfl
@[simp] theorem State.advanceNow_bps (s : State) : (s.advanceNow).bps = s.bps := rfl
@[simp] theorem State.advanceNow_len (s : State) : (s.advanceNow).len = s.len := rfl
@[simp] theorem State.advanceNow_index (s : State) : (s.advanceNow).index = s.index := rfl
@[simp] theorem State.advanceNow_total (s : State) : (s.advanceNow).total = s.total := rfl
@[simp] theorem State.advanceNow_period (s : State) : (s.advanceNow).period = s.period := rfl
@[simp] theorem State.advanceNow_codecRes (s : State) : (s.advanceNow).codecRes = s.codecRes := rfl
@[simp] theorem State.advanceNow_lvlOut (s : State) : (s.advanceNow).lvlOut = s.lvlOut := rfl
@[simp] theorem State.advanceNow_clkOut (s : State) : (s.advanceNow).clkOut = s.clkOut := rfl
@[simp] theorem State.advanceNow_payload (s : State) : (s.advanceNow).payload = s.payload := rfl
@[simp] theorem State.advanceNow_now (s : State) : (s.advanceNow).now = s.now + 1 := rfl
@[simp] theorem State.advanceNow_levels (s : State) : (s.advanceNow).levels = s.levels := rfl
@[simp] theorem State.advanceNow_phase (s : State) : (s.advanceNow).phase = s.phase := rfl
@[simp] theorem State.advanceNow_due (s : State) : (s.advanceNow).due = s.due := rfl
@[simp] theorem State.advanceNow_last (s : State) : (s.advanceNow).last = s.last := rfl
@[simp] theorem State.advanceNow_haveLast (s : State) : (s.advanceNow).haveLast = s.haveLast := rfl
@[simp] theorem State.advanceNow_evValid (s : State) : (s.advanceNow).evValid = s.evValid := rfl
@[simp] theorem State.advanceNow_evLevel (s : State) : (s.advanceNow).evLevel = s.evLevel := rfl
@[simp] theorem State.advanceNow_evClk (s : State) : (s.advanceNow).evClk = s.evClk := rfl
@[simp] theorem State.advanceNow_evFire (s : State) : (s.advanceNow).evFire = s.evFire := rfl
@[simp] theorem State.advanceNow_event (s : State) : (s.advanceNow).event = s.event := rfl
@[simp] theorem State.advanceNow_hrdata (s : State) : (s.advanceNow).hrdata = s.hrdata := rfl
@[simp] theorem State.advanceNow_host (s : State) : (s.advanceNow).host = s.host := rfl
@[simp] theorem State.advanceNow_sink (s : State) : (s.advanceNow).sink = s.sink := rfl
@[simp] theorem State.advanceNow_draws (s : State) : (s.advanceNow).draws = s.draws + 1 := rfl

/-! ### takeInputs -/

@[simp] theorem State.takeInputs_params (s : State) : (s.takeInputs).params = s.params := rfl
@[simp] theorem State.takeInputs_sched (s : State) : (s.takeInputs).sched = s.sched := rfl
@[simp] theorem State.takeInputs_err (s : State) : (s.takeInputs).err = s.err := rfl
@[simp] theorem State.takeInputs_sinkErr (s : State) : (s.takeInputs).sinkErr = s.sinkErr := rfl
@[simp] theorem State.takeInputs_cancelled (s : State) : (s.takeInputs).cancelled = s.cancelled := rfl
@[simp] theorem State.takeInputs_config (s : State) : (s.takeInputs).config = s.config := rfl
@[simp] theorem State.takeInputs_bps (s : State) : (s.takeInputs).bps = s.bps := rfl
@[simp] theorem State.takeInputs_len (s : State) : (s.takeInputs).len = s.len := rfl
@[simp] theorem State.takeInputs_index (s : State) : (s.takeInputs).index = s.index := rfl
@[simp] theorem State.takeInputs_total (s : State) : (s.takeInputs).total = s.total := rfl
@[simp] theorem State.takeInputs_period (s : State) : (s.takeInputs).period = s.period := rfl
@[simp] theorem State.takeInputs_codecRes (s : State) : (s.takeInputs).codecRes = s.codecRes := rfl
@[simp] theorem State.takeInputs_lvlOut (s : State) : (s.takeInputs).lvlOut = s.lvlOut := rfl
@[simp] theorem State.takeInputs_clkOut (s : State) : (s.takeInputs).clkOut = s.clkOut := rfl
@[simp] theorem State.takeInputs_payload (s : State) : (s.takeInputs).payload = s.payload := rfl
@[simp] theorem State.takeInputs_now (s : State) : (s.takeInputs).now = s.now := rfl
@[simp] theorem State.takeInputs_levels (s : State) : (s.takeInputs).levels = s.levels := rfl
@[simp] theorem State.takeInputs_phase (s : State) : (s.takeInputs).phase = s.phase := rfl
@[simp] theorem State.takeInputs_due (s : State) : (s.takeInputs).due = s.due := rfl
@[simp] theorem State.takeInputs_last (s : State) : (s.takeInputs).last = s.last := rfl
@[simp] theorem State.takeInputs_haveLast (s : State) : (s.takeInputs).haveLast = s.haveLast := rfl
@[simp] theorem State.takeInputs_evValid (s : State) : (s.takeInputs).evValid = s.evValid := rfl
@[simp] theorem State.takeInputs_evLevel (s : State) : (s.takeInputs).evLevel = s.evLevel := rfl
@[simp] theorem State.takeInputs_evClk (s : State) : (s.takeInputs).evClk = s.evClk := rfl
@[simp] theorem State.takeInputs_evFire (s : State) : (s.takeInputs).evFire = s.evFire := rfl
@[simp] theorem State.takeInputs_event (s : State) : (s.takeInputs).event = s.event := rfl
@[simp] theorem State.takeInputs_hrdata (s : State) : (s.takeInputs).hrdata = none := rfl
@[simp] theorem State.takeInputs_host (s : State) : (s.takeInputs).host = s.host.tail := rfl
@[simp] theorem State.takeInputs_sink (s : State) : (s.takeInputs).sink = s.sink.tail := rfl
@[simp] theorem State.takeInputs_draws (s : State) : (s.takeInputs).draws = s.draws := rfl

/-! ### hardReset and resetWith -/

@[simp] theorem State.hardReset_params (s : State) : s.hardReset.params = s.params := rfl
@[simp] theorem State.hardReset_sched (s : State) : s.hardReset.sched = .idle := rfl
@[simp] theorem State.hardReset_err (s : State) : s.hardReset.err = .ok := rfl
@[simp] theorem State.hardReset_sinkErr (s : State) : s.hardReset.sinkErr = false := rfl
@[simp] theorem State.hardReset_cancelled (s : State) : s.hardReset.cancelled = false := rfl
@[simp] theorem State.hardReset_config (s : State) : s.hardReset.config = 0 := rfl
@[simp] theorem State.hardReset_bps (s : State) : s.hardReset.bps = 0 := rfl
@[simp] theorem State.hardReset_len (s : State) : s.hardReset.len = 0 := rfl
@[simp] theorem State.hardReset_index (s : State) : s.hardReset.index = 0 := rfl
@[simp] theorem State.hardReset_total (s : State) : s.hardReset.total = 0 := rfl
@[simp] theorem State.hardReset_period (s : State) : s.hardReset.period = 0 := rfl
@[simp] theorem State.hardReset_codecRes (s : State) : s.hardReset.codecRes = 0 := rfl
@[simp] theorem State.hardReset_lvlOut (s : State) : s.hardReset.lvlOut = 0 := rfl
@[simp] theorem State.hardReset_clkOut (s : State) : s.hardReset.clkOut = false := rfl
@[simp] theorem State.hardReset_payload (s : State) : s.hardReset.payload = s.payload := rfl
@[simp] theorem State.hardReset_now (s : State) : s.hardReset.now = 0 := rfl
@[simp] theorem State.hardReset_levels (s : State) : s.hardReset.levels = [] := rfl
@[simp] theorem State.hardReset_phase (s : State) : s.hardReset.phase = .wait := rfl
@[simp] theorem State.hardReset_due (s : State) : s.hardReset.due = 0 := rfl
@[simp] theorem State.hardReset_last (s : State) : s.hardReset.last = 0 := rfl
@[simp] theorem State.hardReset_haveLast (s : State) : s.hardReset.haveLast = false := rfl
@[simp] theorem State.hardReset_evValid (s : State) : s.hardReset.evValid = false := rfl
@[simp] theorem State.hardReset_evLevel (s : State) : s.hardReset.evLevel = 0 := rfl
@[simp] theorem State.hardReset_evClk (s : State) : s.hardReset.evClk = false := rfl
@[simp] theorem State.hardReset_evFire (s : State) : s.hardReset.evFire = false := rfl
@[simp] theorem State.hardReset_event (s : State) : s.hardReset.event = none := rfl
@[simp] theorem State.hardReset_hrdata (s : State) : s.hardReset.hrdata = none := rfl
@[simp] theorem State.hardReset_host (s : State) : s.hardReset.host = s.host := rfl
@[simp] theorem State.hardReset_sink (s : State) : s.hardReset.sink = s.sink := rfl
@[simp] theorem State.hardReset_draws (s : State) : s.hardReset.draws = s.draws + 1 := rfl

@[simp] theorem State.resetWith_params (p : Params) : (State.resetWith p).params = p := rfl
@[simp] theorem State.resetWith_sched (p : Params) : (State.resetWith p).sched = .idle := rfl
@[simp] theorem State.resetWith_err (p : Params) : (State.resetWith p).err = .ok := rfl
@[simp] theorem State.resetWith_sinkErr (p : Params) : (State.resetWith p).sinkErr = false := rfl
@[simp] theorem State.resetWith_cancelled (p : Params) : (State.resetWith p).cancelled = false := rfl
@[simp] theorem State.resetWith_config (p : Params) : (State.resetWith p).config = 0 := rfl
@[simp] theorem State.resetWith_bps (p : Params) : (State.resetWith p).bps = 0 := rfl
@[simp] theorem State.resetWith_len (p : Params) : (State.resetWith p).len = 0 := rfl
@[simp] theorem State.resetWith_index (p : Params) : (State.resetWith p).index = 0 := rfl
@[simp] theorem State.resetWith_total (p : Params) : (State.resetWith p).total = 0 := rfl
@[simp] theorem State.resetWith_period (p : Params) : (State.resetWith p).period = 0 := rfl
@[simp] theorem State.resetWith_codecRes (p : Params) : (State.resetWith p).codecRes = 0 := rfl
@[simp] theorem State.resetWith_lvlOut (p : Params) : (State.resetWith p).lvlOut = 0 := rfl
@[simp] theorem State.resetWith_clkOut (p : Params) : (State.resetWith p).clkOut = false := rfl
@[simp] theorem State.resetWith_payload (p : Params) : (State.resetWith p).payload = [] := rfl
@[simp] theorem State.resetWith_now (p : Params) : (State.resetWith p).now = 0 := rfl
@[simp] theorem State.resetWith_levels (p : Params) : (State.resetWith p).levels = [] := rfl
@[simp] theorem State.resetWith_phase (p : Params) : (State.resetWith p).phase = .wait := rfl
@[simp] theorem State.resetWith_due (p : Params) : (State.resetWith p).due = 0 := rfl
@[simp] theorem State.resetWith_last (p : Params) : (State.resetWith p).last = 0 := rfl
@[simp] theorem State.resetWith_haveLast (p : Params) : (State.resetWith p).haveLast = false := rfl
@[simp] theorem State.resetWith_evValid (p : Params) : (State.resetWith p).evValid = false := rfl
@[simp] theorem State.resetWith_evLevel (p : Params) : (State.resetWith p).evLevel = 0 := rfl
@[simp] theorem State.resetWith_evClk (p : Params) : (State.resetWith p).evClk = false := rfl
@[simp] theorem State.resetWith_evFire (p : Params) : (State.resetWith p).evFire = false := rfl
@[simp] theorem State.resetWith_event (p : Params) : (State.resetWith p).event = none := rfl
@[simp] theorem State.resetWith_hrdata (p : Params) : (State.resetWith p).hrdata = none := rfl
@[simp] theorem State.resetWith_host (p : Params) : (State.resetWith p).host = [] := rfl
@[simp] theorem State.resetWith_sink (p : Params) : (State.resetWith p).sink = [] := rfl
@[simp] theorem State.resetWith_draws (p : Params) : (State.resetWith p).draws = 0 := rfl

end Sys2Proof.Machine
end

