-- ==== Sys2Proof/Laws/Memory.lean ====
section
/-! SUPPORT. The payload buffer: read after write, and the canonical form is kept. -/

namespace Sys2Proof.Machine

theorem payloadAddr_inj {j k : Nat} (h : payloadAddr j = payloadAddr k) : j = k := by
  simp only [payloadAddr] at h; omega

theorem Memory.get?_put_same (m : Memory) (a : Nat) (v : Byte) : (m.put a v).get? a = some v := by
  induction m with
  | nil => simp [Memory.put, Memory.get?]
  | cons c m ih =>
    obtain ⟨b, x⟩ := c
    simp only [Memory.put]
    split
    · simp [Memory.get?]
    · split
      · simp [Memory.get?]
      · have : ¬ b = a := fun h => by simp_all
        simp [Memory.get?, this, ih]

theorem Memory.get?_put_other (m : Memory) {a b : Nat} (v : Byte) (h : b ≠ a) :
    (m.put a v).get? b = m.get? b := by
  induction m with
  | nil => simp [Memory.put, Memory.get?, h.symm]
  | cons c m ih =>
    obtain ⟨d, x⟩ := c
    simp only [Memory.put]
    split
    · simp [Memory.get?, h.symm]
    · split
      · subst_vars; simp [Memory.get?, h.symm]
      · simp only [Memory.get?, ih]

/-- The canonical form read off the list: every later address lies above the head's. -/
theorem Memory.wf_cons {a : Nat} {v : Byte} {m : Memory} :
    Memory.wf ((a, v) :: m) = true ↔ m.wf = true ∧ ∀ c ∈ m, a < c.1 := by
  induction m generalizing a v with
  | nil => simp [Memory.wf]
  | cons c m ih =>
    obtain ⟨b, y⟩ := c
    simp only [Memory.wf, Bool.and_eq_true, decide_eq_true_eq, ih, List.mem_cons, forall_eq_or_imp]
    exact ⟨fun ⟨hab, hm, hb⟩ => ⟨⟨hm, hb⟩, hab, fun c hc => Nat.lt_trans hab (hb c hc)⟩,
      fun ⟨h, hab, _⟩ => ⟨hab, h⟩⟩

theorem Memory.mem_put {m : Memory} {a : Nat} {v : Byte} {c : Host.Cell} (h : c ∈ m.put a v) :
    c = (a, v) ∨ c ∈ m := by
  induction m with
  | nil => simpa [Memory.put] using h
  | cons d m ih =>
    obtain ⟨b, x⟩ := d
    simp only [Memory.put] at h
    split at h
    · simpa using h
    · split at h
      · rcases List.mem_cons.1 h with h | h
        · exact .inl h
        · exact .inr (List.mem_cons_of_mem _ h)
      · rcases List.mem_cons.1 h with h | h
        · exact .inr (h ▸ List.mem_cons_self)
        · exact (ih h).imp_right (List.mem_cons_of_mem _)

theorem Memory.put_wf {m : Memory} (a : Nat) (v : Byte) (h : m.wf = true) : (m.put a v).wf = true := by
  induction m with
  | nil => rfl
  | cons c m ih =>
    obtain ⟨b, x⟩ := c
    obtain ⟨hm, hb⟩ := Memory.wf_cons.1 h
    simp only [Memory.put]
    split
    · rename_i hab
      refine Memory.wf_cons.2 ⟨h, fun c hc => ?_⟩
      rcases List.mem_cons.1 hc with hc | hc
      · exact hc ▸ hab
      · exact Nat.lt_trans hab (hb c hc)
    · split
      · subst_vars; exact Memory.wf_cons.2 ⟨hm, hb⟩
      · refine Memory.wf_cons.2 ⟨ih hm, fun c hc => ?_⟩
        rcases Memory.mem_put hc with hc | hc
        · subst hc; show b < a; omega
        · exact hb c hc

theorem reset_payload_wf : State.reset.payload.wf = true := rfl

theorem State.written?_setPayload_same (s : State) (k : Nat) (v : Byte) :
    (s.setPayload k v).written? k = some v := Memory.get?_put_same ..

theorem State.written?_setPayload_other (s : State) {j k : Nat} (v : Byte) (h : j ≠ k) :
    (s.setPayload k v).written? j = s.written? j :=
  Memory.get?_put_other _ _ (fun e => h (payloadAddr_inj e))

/-- A read of PAYLOAD depends on the buffer and on the tick's draw number alone. -/
theorem State.readPayload_congr {s t : State} (hp : t.payload = s.payload) (hd : t.draws = s.draws) (k : Nat) :
    t.readPayload k = s.readPayload k := by
  simp [State.readPayload, State.written?, hp, hd]

end Sys2Proof.Machine
end

