-- ==== Sys2Proof/Laws/Ops.lean ====
section
/-! SUPPORT. Once for each shared operation: everything it can do. -/

namespace Sys2Proof.Machine

@[simp] theorem reject_eq (e : ErrCode) (s : State) : reject e s = .next (s.setErr e) := rfl

@[simp] theorem accept_eq (s : State) : accept s = .next (s.setErr .ok) := rfl

theorem lockedWrite_running {w : State → State} {s : State} (h : s.sched = .running) :
    lockedWrite w s = .next (s.setErr .transmissionInProgress) := if_pos h

theorem lockedWrite_free {w : State → State} {s : State} (h : s.sched ≠ .running) :
    lockedWrite w s = .next ((w s).setErr .ok) := if_neg h

theorem lockedWrite_cases {w : State → State} {s t : State} (h : lockedWrite w s = .next t) :
    (s.sched = .running ∧ t = s.setErr .transmissionInProgress) ∨ (s.sched ≠ .running ∧ t = (w s).setErr .ok) := by
  by_cases hr : s.sched = .running
  · rw [lockedWrite_running hr] at h; exact .inl ⟨hr, (Host.Outcome.next.inj h).symm⟩
  · rw [lockedWrite_free hr] at h; exact .inr ⟨hr, (Host.Outcome.next.inj h).symm⟩

theorem blockCommand_cases {r : Byte → Bool → Word} {blk : Byte} {xp : Bool} {s t : State}
    (h : blockCommand r blk xp s = .next t) :
    (badBlock blk xp = true ∧ t = s.setErr .invalidInput) ∨
    (badBlock blk xp = false ∧ t = (s.setCodecRes (r blk xp)).setErr .ok) := by
  unfold blockCommand at h
  split at h
  · exact .inl ⟨‹_›, (Host.Outcome.next.inj h).symm⟩
  · exact .inr ⟨by simp_all, (Host.Outcome.next.inj h).symm⟩

/-! ### START -/

theorem Mode.ofField_isSome (m : BitVec 3) : (Mode.ofField m).isSome = true ↔ m.toNat ≤ 3 := by
  revert m; decide

theorem startCheck_accepted {s : State} {m : Mode} (h : startCheck s = .accepted m) :
    s.sched ≠ .running ∧ Mode.ofField s.modeField = some m ∧ s.bps ≠ 0 ∧ s.nominalPeriod ≠ 0 ∧
      s.len.toNat ≤ s.params.nBuf := by
  unfold startCheck at h
  split at h
  · simp at h
  · split at h
    · simp at h
    · split at h
      · simp at h
      · split at h
        · simp at h
        · rename_i h1 _ _ h2 h3 h4
          simp only [StartCheck.accepted.injEq] at h
          exact ⟨h1, h ▸ h2, fun e => h3 (.inl e), fun e => h3 (.inr e), Nat.le_of_not_lt h4⟩

end Sys2Proof.Machine
end

