-- ==== Sys2Proof/Laws/Start.lean ====
section
/-! SUPPORT. What START does: its checks against `State.Startable`, and its two outcomes. -/

namespace Sys2Proof.Machine

theorem nominalPeriod_ne_zero {s : State} (hb : s.bps ≠ 0) :
    s.nominalPeriod ≠ 0 ↔ s.bps.toNat ≤ s.params.tickHz := by
  have hpos : 0 < s.bps.toNat := Nat.pos_of_ne_zero (fun h => hb (BitVec.eq_of_toNat_eq (by simpa using h)))
  simp only [State.nominalPeriod, ne_eq, Nat.div_eq_zero_iff]
  omega

theorem startCheck_accepted_iff {s : State} {m : Mode} :
    startCheck s = .accepted m ↔ s.Startable ∧ s.mode = m := by
  have hbps : s.bps ≠ 0 ↔ 1 ≤ s.bps.toNat := by
    rw [Nat.one_le_iff_ne_zero]
    exact not_congr ⟨fun h => by simp [h], fun h => BitVec.eq_of_toNat_eq (by simpa using h)⟩
  constructor
  · intro h
    obtain ⟨h1, h2, h3, h4, h5⟩ := startCheck_accepted h
    exact ⟨⟨h1, (Mode.ofField_isSome _).1 (by simp [h2]), hbps.1 h3, (nominalPeriod_ne_zero h3).1 h4, h5⟩,
      by simp [State.mode, h2]⟩
  · rintro ⟨⟨h1, h2, h3, h4, h5⟩, hm⟩
    obtain ⟨n, hn⟩ := Option.isSome_iff_exists.1 ((Mode.ofField_isSome _).2 h2)
    have hnm : n = m := by simpa [State.mode, hn] using hm
    have h6 := (nominalPeriod_ne_zero (hbps.2 h3)).2 h4
    have h7 : ¬ (s.bps = 0 ∨ s.nominalPeriod = 0) := fun h => h.elim (hbps.2 h3) h6
    rw [startCheck, if_neg h1, hn]
    simp only [if_neg h7, if_neg (Nat.not_lt.2 h5), hnm]

theorem execStart_startable {s : State} (h : s.Startable) :
    execStart s =
      .next ((s.beginTransmission (s.planLevels s.mode) (BitVec.ofNat 32 s.nominalPeriod)).setErr .ok) := by
  simp [execStart, startCheck_accepted_iff.2 ⟨h, rfl⟩]

/-- Taking the tick's inputs does not bear on the checks of START. -/
theorem startable_takeInputs {s : State} : s.takeInputs.Startable ↔ s.Startable :=
  ⟨fun h => ⟨h.1, h.2, h.3, h.4, h.5⟩, fun h => ⟨h.1, h.2, h.3, h.4, h.5⟩⟩

/-- START either begins a transmission or changes nothing but ERR. -/
theorem execStart_cases {s t : State} (h : execStart s = .next t) :
    (s.Startable ∧
      t = (s.beginTransmission (s.planLevels s.mode) (BitVec.ofNat 32 s.nominalPeriod)).setErr .ok) ∨
    (¬ s.Startable ∧ ∃ e, e ≠ .ok ∧ startCheck s = .rejected e ∧ t = s.setErr e) := by
  by_cases hs : s.Startable
  · rw [execStart_startable hs] at h; exact .inl ⟨hs, (Host.Outcome.next.inj h).symm⟩
  · refine .inr ⟨hs, ?_⟩
    unfold execStart at h
    split at h
    · rename_i e he
      refine ⟨e, ?_, he, (Host.Outcome.next.inj h).symm⟩
      rintro rfl
      unfold startCheck at he
      repeat' split at he
      all_goals simp at he
    · rename_i m he; exact absurd (startCheck_accepted_iff.1 he).1 hs

end Sys2Proof.Machine
end

