-- ==== Sys2Proof/Laws/Engine.lean ====
section
/-! SUPPORT. The engine step: every case of it, once (44_scheduler.md R190). -/

namespace Sys2Proof.Machine

theorem State.measuredGap_of_le {s : State} (h : s.last ≤ s.now) (hb : s.now < 2 ^ 64) :
    s.measuredGap = s.now - s.last := by
  simp only [State.measuredGap, timeModulus]
  omega

theorem State.compensatedDelay_first {s : State} (h : s.haveLast = false) :
    s.compensatedDelay = s.period.toNat := by simp [State.compensatedDelay, h]

theorem State.compensatedDelay_later {s : State} (h : s.haveLast = true) :
    s.compensatedDelay = 2 * s.period.toNat - s.measuredGap := by
  simp only [State.compensatedDelay, h, if_true]
  omega

theorem engineStep_notRunning {k : SinkIn} {s : State} (h : s.sched ≠ .running) :
    engineStep k s = .next s.quietPorts := if_pos h

theorem engineStep_waiting {k : SinkIn} {s : State} (h : s.Waiting) : engineStep k s = .next s.quietPorts := by
  simp [engineStep, h.1, h.2.1, h.2.2]

theorem engineStep_completing {k : SinkIn} {s : State} (h : s.Completing) :
    engineStep k s = .next s.quietPorts.finishTransmission := by
  simp [engineStep, h.1, h.2.1, h.2.2.2, Nat.not_lt.2 h.2.2.1]

theorem engineStep_offering {k : SinkIn} {s : State} (h : s.Offering) :
    engineStep k s =
      match s.levels[s.index.toNat]? with
      | none => .fault .levelIndexOutOfRange
      | some l =>
        if k.evReady then .next (s.emitLevel l k.sinkErr s.compensatedDelay) else .next (s.offerLevel l) := by
  obtain ⟨hr, ho | ⟨hw, hd, hi⟩⟩ := h
  · cases hl : s.levels[s.index.toNat]? <;> simp [engineStep, hr, ho, hl]
  · cases hl : s.levels[s.index.toNat]? <;> simp [engineStep, hr, hw, hi, Nat.not_lt.2 hd, hl]

/-- Every state is one of four for the engine. -/
theorem engine_cases (s : State) : s.sched ≠ .running ∨ s.Waiting ∨ s.Completing ∨ s.Offering := by
  by_cases hr : s.sched = .running
  · cases hp : s.phase with
    | offer => exact .inr (.inr (.inr ⟨hr, .inl hp⟩))
    | wait =>
      by_cases hd : s.now < s.due
      · exact .inr (.inl ⟨hr, hp, hd⟩)
      · by_cases hi : s.index = s.total
        · exact .inr (.inr (.inl ⟨hr, hp, Nat.le_of_not_lt hd, hi⟩))
        · exact .inr (.inr (.inr ⟨hr, .inr ⟨hp, Nat.le_of_not_lt hd, hi⟩⟩))
  · exact .inl hr

/-- What an engine step that answers a next state did. -/
theorem engineStep_cases {k : SinkIn} {s t : State} (h : engineStep k s = .next t) :
    (s.sched ≠ .running ∧ t = s.quietPorts) ∨
    (s.Waiting ∧ t = s.quietPorts) ∨
    (s.Completing ∧ t = s.quietPorts.finishTransmission) ∨
    (∃ l, s.Offering ∧ s.levels[s.index.toNat]? = some l ∧ k.evReady = false ∧ t = s.offerLevel l) ∨
    (∃ l, s.Offering ∧ s.levels[s.index.toNat]? = some l ∧ k.evReady = true ∧
      t = s.emitLevel l k.sinkErr s.compensatedDelay) := by
  rcases engine_cases s with hs | hs | hs | hs
  · rw [engineStep_notRunning hs] at h; exact .inl ⟨hs, (Host.Outcome.next.inj h).symm⟩
  · rw [engineStep_waiting hs] at h; exact .inr (.inl ⟨hs, (Host.Outcome.next.inj h).symm⟩)
  · rw [engineStep_completing hs] at h; exact .inr (.inr (.inl ⟨hs, (Host.Outcome.next.inj h).symm⟩))
  · rw [engineStep_offering hs] at h
    split at h
    · simp at h
    · rename_i l hl
      split at h
      · exact .inr (.inr (.inr (.inr ⟨l, hs, hl, ‹_›, (Host.Outcome.next.inj h).symm⟩)))
      · exact .inr (.inr (.inr (.inl ⟨l, hs, hl, Bool.eq_false_iff.2 ‹_›, (Host.Outcome.next.inj h).symm⟩)))

theorem engineStep_not_refused (k : SinkIn) (s : State) (r : Refusal) : engineStep k s ≠ .refused r := by
  unfold engineStep
  repeat' split
  all_goals simp

end Sys2Proof.Machine
end

