-- ==== Sys2Proof/Laws/Frame.lean ====
section
/-! SUPPORT. Lengths and values of the streams: codec, frame, modulator. -/

namespace Sys2Proof.Machine

@[simp] theorem bitsOf_length (n : Nat) (v : BitVec n) : (bitsOf n v).length = n := by simp [bitsOf]

@[simp] theorem hamEncodeNibble_length (d1 d2 d3 d4 xp : Bool) :
    (hamEncodeNibble d1 d2 d3 d4 xp).length = 7 + xp.toNat := by
  cases xp <;> rfl

/-- A string of whole nibbles encodes, a block for each nibble. -/
theorem hamEncodeStream_length (x : Bits) (xp : Bool) (h : x.length % 4 = 0) :
    ∃ y, hamEncodeStream x xp = some y ∧ y.length = x.length / 4 * (7 + xp.toNat) := by
  match x with
  | [] => exact ⟨[], rfl, by simp⟩
  | [_] => simp at h
  | [_, _] => simp at h
  | [_, _, _] => simp at h
  | d1 :: d2 :: d3 :: d4 :: r =>
    simp only [List.length_cons] at h
    obtain ⟨y, hy, hl⟩ := hamEncodeStream_length r xp (by omega)
    refine ⟨hamEncodeNibble d1 d2 d3 d4 xp ++ y, by simp [hamEncodeStream, hy], ?_⟩
    have : (r.length + 1 + 1 + 1 + 1) / 4 = r.length / 4 + 1 := by omega
    simp only [List.length_append, hamEncodeNibble_length, hl, List.length_cons, this]
    ring

/-- A string of a length that is no whole number of nibbles does not encode. -/
theorem hamEncodeStream_partial : ∀ (x : Bits) (xp : Bool), x.length % 4 ≠ 0 → hamEncodeStream x xp = none
  | [], _, h => absurd rfl h
  | [_], _, _ => rfl
  | [_, _], _, _ => rfl
  | [_, _, _], _, _ => rfl
  | _ :: _ :: _ :: _ :: r, xp, h => by
    simp only [List.length_cons] at h
    simp only [hamEncodeStream, hamEncodeStream_partial r xp (by omega)]

/-- The m-th block of a cut is the n bits from position n * m on. -/
theorem cutBlocks_eq (n : Nat) : ∀ (m : Nat) (y : Bits),
    cutBlocks n m y = (List.range m).map (fun j => (y.drop (n * j)).take n)
  | 0, _ => rfl
  | m + 1, y => by
    simp [cutBlocks, cutBlocks_eq n m, List.range_succ_eq_map, Function.comp_def, Nat.mul_succ, Nat.add_comm]

/-- Cutting a received string: its blocks by position, or the failure on a partial block. -/
theorem blocksOf_eq (y : Bits) (xp : Bool) :
    blocksOf y xp = if y.length % (7 + xp.toNat) = 0 then
      some ((List.range (y.length / (7 + xp.toNat))).map (fun j => (y.drop ((7 + xp.toNat) * j)).take (7 + xp.toNat)))
    else none := by simp only [blocksOf, cutBlocks_eq]

theorem worse_eq_uncorrectable (a b : DecodeStatus) :
    a.worse b = .uncorrectable ↔ a = .uncorrectable ∨ b = .uncorrectable := by cases a <;> cases b <;> decide

theorem worse_eq_clean (a b : DecodeStatus) : a.worse b = .clean ↔ a = .clean ∧ b = .clean := by
  cases a <;> cases b <;> decide

@[simp] theorem hamDecode_data_length (b : Bits) (xp : Bool) : (hamDecode b xp).data.length = 4 := by
  cases xp
  · rfl
  · simp only [hamDecode, if_true, hamDecode8]; split <;> rfl

@[simp] theorem rawBits_length (bytes : List Byte) : (rawBits bytes).length = 8 * bytes.length := by
  induction bytes with
  | nil => rfl
  | cons b r ih => simp only [rawBits, List.map_cons, List.flatten_cons, List.length_append, bitsOf_length,
      List.length_cons] at ih ⊢; omega

/-- The payload width W in bits (42_frame.md R158). -/
def payloadWidth (n : Nat) (hamEn xparEn : Bool) : Nat :=
  if hamEn then (if xparEn then 16 * n else 14 * n) else 8 * n

@[simp] theorem payloadBits_length (bytes : List Byte) (hamEn xparEn : Bool) :
    (payloadBits bytes hamEn xparEn).length = payloadWidth bytes.length hamEn xparEn := by
  cases hamEn with
  | false => simp [payloadBits, payloadWidth]
  | true =>
    obtain ⟨y, hy, hl⟩ := hamEncodeStream_length (rawBits bytes) xparEn (by simp; omega)
    simp only [payloadBits, if_true, hy, Option.getD_some, hl, rawBits_length, payloadWidth]
    cases xparEn <;> simp <;> omega

@[simp] theorem frameBits_length (bytes : List Byte) (hamEn xparEn : Bool) :
    (frameBits bytes hamEn xparEn).length = payloadWidth bytes.length hamEn xparEn + 17 := by
  simp [frameBits, startMarker, stopMarker, resetBit]

theorem groupLevels_length : ∀ y : Bits, (groupLevels y).length = y.length / 2
  | [] => rfl
  | [_] => by simp [groupLevels]
  | _ :: _ :: y => by simp only [groupLevels, List.length_cons, groupLevels_length y]; omega

theorem padEven_length (x : Bits) : (padEven x).length = x.length + x.length % 2 := by
  simp only [padEven]; split <;> simp <;> omega

theorem modulate_length (m : Mode) (x : Bits) :
    (modulate m x).length = match m with
      | .brightness2bit => (x.length + 1) / 2
      | .basic => x.length
      | .clockInterleaved => x.length
      | .brightnessWithClock => x.length := by
  cases m <;> simp [modulate, groupLevels_length, padEven_length]; omega

@[simp] theorem payloadBytes_length (s : State) : s.payloadBytes.length = s.len.toNat := by
  simp [State.payloadBytes]

theorem payloadBytes_getElem? {s : State} {k : Nat} (h : k < s.len.toNat) :
    s.payloadBytes[k]? = some (s.readPayload k) := by simp [State.payloadBytes, h]

theorem binaryLevel_legal (b : Bool) : LegalLevel (binaryLevel b) := by cases b <;> decide

theorem groupLevel_legal (a b : Bool) : LegalLevel (groupLevel a b) := by cases a <;> cases b <;> decide

theorem groupLevels_legal : ∀ (y : Bits), ∀ l ∈ groupLevels y, LegalLevel l.level
  | [], l, h => by simp [groupLevels] at h
  | [_], l, h => by simp [groupLevels] at h
  | a :: b :: y, l, h => by
    rcases List.mem_cons.1 h with h | h
    · subst h; exact groupLevel_legal a b
    · exact groupLevels_legal y l h

theorem modulate_legal (m : Mode) (x : Bits) : ∀ l ∈ modulate m x, LegalLevel l.level := by
  intro l h
  cases m with
  | basic => obtain ⟨b, -, rfl⟩ := List.mem_map.1 h; exact binaryLevel_legal b
  | clockInterleaved =>
    obtain ⟨i, hi, rfl⟩ := List.mem_mapIdx.1 h; exact binaryLevel_legal _
  | brightness2bit => exact groupLevels_legal _ l h
  | brightnessWithClock =>
    obtain ⟨i, hi, rfl⟩ := List.mem_mapIdx.1 h; exact groupLevel_legal _ _

/-- The level list of a START within the legal parameters is not empty and fits TOTAL. -/
theorem planLevels_length_bounds {s : State} (hp : s.params.Legal) (hs : s.Startable) (m : Mode) :
    9 ≤ (s.planLevels m).length ∧ (s.planLevels m).length < 2 ^ 32 := by
  have hl := hs.lenLe
  have hb := hp.2.1
  simp only [State.planLevels, modulate_length, frameBits_length, payloadBytes_length, payloadWidth]
  cases m <;> cases s.hamEn <;> cases s.xparEn <;> simp <;> omega

theorem planLevels_total {s : State} (hp : s.params.Legal) (hs : s.Startable) (m : Mode) :
    (BitVec.ofNat 32 (s.planLevels m).length).toNat = (s.planLevels m).length := by
  have := (planLevels_length_bounds hp hs m).2
  simp only [BitVec.toNat_ofNat]; omega

theorem nominalPeriod_toNat {s : State} (hp : s.params.Legal) :
    (BitVec.ofNat 32 s.nominalPeriod).toNat = s.nominalPeriod := by
  have h1 : s.nominalPeriod ≤ s.params.tickHz := Nat.div_le_self ..
  have h2 := hp.2.2.2
  simp only [BitVec.toNat_ofNat]; omega

theorem nominalPeriod_pos {s : State} (hs : s.Startable) : 1 ≤ s.nominalPeriod :=
  Nat.div_pos hs.bpsLe hs.bpsPos

end Sys2Proof.Machine
end

