-- ==== Sys2Proof/Laws/Tick.lean ====
section
/-! SUPPORT. The tick: every case of a step, once (70_reset_and_hazards.md R253). -/

namespace Sys2Proof.Machine

theorem endTick_next {k : SinkIn} {s u : State} (h : endTick k s = .next u) :
    ∃ t, engineStep k s = .next t ∧ u = t.advanceNow := by
  unfold endTick at h
  split at h
  · exact ⟨_, ‹_›, (Host.Outcome.next.inj h).symm⟩
  · simp at h
  · simp at h

theorem step_reset {s : State} (h : s.hostIn.rst = true) : step s = .next s.takeInputs.hardReset := by
  simp [step, tick, h, resetTick]

theorem step_noAccess {s : State} (h : s.Ordinary) (hf : s.fetch = none) :
    step s = endTick s.sinkIn s.takeInputs := by
  have h1 := h.2
  simp [step, tick, h.1, accessTick, hf, timeModulus]
  omega

theorem step_access {s t : State} {i : Instr} (h : s.Ordinary) (hf : s.fetch = some i)
    (he : exec i s.takeInputs = .next t) : step s = endTick s.sinkIn t := by
  have h1 := h.2
  simp [step, tick, h.1, accessTick, hf, timeModulus, he]
  omega

/-- What a step that answers a next state did: a reset tick, or the access if there was one, the engine step and the
advance of NOW. -/
theorem step_cases {s u : State} (h : step s = .next u) :
    (s.hostIn.rst = true ∧ u = s.takeInputs.hardReset) ∨
    (s.Ordinary ∧ ∃ t v, ((s.fetch = none ∧ t = s.takeInputs) ∨
        (∃ i, s.fetch = some i ∧ exec i s.takeInputs = .next t)) ∧
      engineStep s.sinkIn t = .next v ∧ u = v.advanceNow) := by
  by_cases hr : s.hostIn.rst = true
  · rw [step_reset hr] at h; exact .inl ⟨hr, (Host.Outcome.next.inj h).symm⟩
  · have hr' : s.hostIn.rst = false := by simpa using hr
    refine .inr ?_
    by_cases hn : timeModulus ≤ s.now + 1
    · simp [step, tick, hr', hn] at h
    · have ho : s.Ordinary := ⟨hr', by simp only [timeModulus] at hn; omega⟩
      refine ⟨ho, ?_⟩
      simp only [step, tick, hr', hn, if_false, accessTick, Bool.false_eq_true] at h
      split at h
      · obtain ⟨v, hv, hu⟩ := endTick_next h
        exact ⟨_, v, .inl ⟨‹_›, rfl⟩, hv, hu⟩
      · split at h
        · obtain ⟨v, hv, hu⟩ := endTick_next h
          exact ⟨_, v, .inr ⟨_, ‹_›, ‹_›⟩, hv, hu⟩
        · simp at h
        · simp at h

end Sys2Proof.Machine
end

