-- ==== Sys2Proof/Laws/Exec.lean ====
section
/-! SUPPORT. What an access can do, over all instructions. -/

namespace Sys2Proof.Machine

/-! ### Each arm of exec, as an equation -/

theorem exec_nop (s : State) : exec .nop s = accept s := rfl
theorem exec_start (s : State) : exec .start s = execStart s := rfl
theorem exec_cancel (s : State) : exec .cancel s = execCancel s := rfl
theorem exec_henc (nib : BitVec 4) (xp : Bool) (s : State) :
    exec (.henc nib xp) s = accept (s.setCodecRes (hencWord nib xp)) := rfl
theorem exec_hdec (blk : Byte) (xp : Bool) (s : State) :
    exec (.hdec blk xp) s = blockCommand hdecWord blk xp s := rfl
theorem exec_hchk (blk : Byte) (xp : Bool) (s : State) :
    exec (.hchk blk xp) s = blockCommand hchkWord blk xp s := rfl
theorem exec_rd (a : WordAddr) (s : State) : exec (.rd a) s = .next (s.setHrdata (regRead s a)) := rfl
theorem exec_wrCmd (w : Word) (s : State) : exec (.wrCmd w) s = execWrCmd w s := rfl
theorem exec_wrConfig (v : Word) (s : State) :
    exec (.wrConfig v) s = lockedWrite (fun t => t.setConfig (v.extractLsb' 0 5)) s := rfl
theorem exec_wrBps (v : Word) (s : State) : exec (.wrBps v) s = lockedWrite (fun t => t.setBps v) s := rfl
theorem exec_wrLen (v : Word) (s : State) : exec (.wrLen v) s = lockedWrite (fun t => t.setLen v) s := rfl
theorem exec_wrPayload {k : BitVec 10} {s : State} (v : Word) (h : k.toNat < s.params.nBuf) :
    exec (.wrPayload k v) s = lockedWrite (fun t => t.setPayload k.toNat (v.extractLsb' 0 8)) s := if_pos h
theorem exec_wrPayload_unmapped {k : BitVec 10} {s : State} (v : Word) (h : ¬ k.toNat < s.params.nBuf) :
    exec (.wrPayload k v) s = .next s := if_neg h

theorem performed_wrCmd {w : Word} {i : Instr} (h : decodeCommand w = some i) :
    (Instr.wrCmd w).performed = i := by simp [Instr.performed, h]

/-! ### All instructions together -/

/-- Everything an access of the instruction `i` can do to the state, one case for each kind of effect. -/
inductive Access (i : Instr) (s : State) : State → Prop
  | same : Access i s s
  | read (a : WordAddr) : i = .rd a → Access i s (s.setHrdata (regRead s a))
  | error (e : ErrCode) : Access i s (s.setErr e)
  | config (v : BitVec 5) : s.sched ≠ .running → Access i s ((s.setConfig v).setErr .ok)
  | bps (v : Word) : s.sched ≠ .running → Access i s ((s.setBps v).setErr .ok)
  | len (v : Word) : s.sched ≠ .running → Access i s ((s.setLen v).setErr .ok)
  | payload (k : Nat) (v : Byte) : k < s.params.nBuf → s.sched ≠ .running →
      Access i s ((s.setPayload k v).setErr .ok)
  | henc (nib : BitVec 4) (xp : Bool) : Access i s ((s.setCodecRes (hencWord nib xp)).setErr .ok)
  | hdec (blk : Byte) (xp : Bool) : Access i s ((s.setCodecRes (hdecWord blk xp)).setErr .ok)
  | hchk (blk : Byte) (xp : Bool) : Access i s ((s.setCodecRes (hchkWord blk xp)).setErr .ok)
  | start : s.Startable →
      Access i s ((s.beginTransmission (s.planLevels s.mode) (BitVec.ofNat 32 s.nominalPeriod)).setErr .ok)
  | cancel : s.sched = .running → Access i s (s.cancelTransmission.setErr .ok)

theorem lockedWrite_access {i : Instr} {w : State → State} {s t : State} (h : lockedWrite w s = .next t)
    (hw : s.sched ≠ .running → Access i s ((w s).setErr .ok)) : Access i s t := by
  rcases lockedWrite_cases h with ⟨-, rfl⟩ | ⟨hr, rfl⟩
  · exact .error _
  · exact hw hr

theorem execStart_access {i : Instr} {s t : State} (h : execStart s = .next t) : Access i s t := by
  rcases execStart_cases h with ⟨hs, rfl⟩ | ⟨-, e, -, -, rfl⟩
  · exact .start hs
  · exact .error e

theorem execCancel_access {i : Instr} {s t : State} (h : execCancel s = .next t) : Access i s t := by
  unfold execCancel at h
  split at h <;> cases h
  · exact .cancel ‹_›
  · exact .error _

theorem exec_access {i : Instr} {s t : State} (h : exec i s = .next t) : Access i s t := by
  have hd : ∀ {j : Instr} blk xp, execHdec blk xp s = .next t → Access j s t := fun blk xp h => by
    rcases blockCommand_cases h with ⟨-, rfl⟩ | ⟨-, rfl⟩
    · exact .error _
    · exact .hdec blk xp
  have hc : ∀ {j : Instr} blk xp, execHchk blk xp s = .next t → Access j s t := fun blk xp h => by
    rcases blockCommand_cases h with ⟨-, rfl⟩ | ⟨-, rfl⟩
    · exact .error _
    · exact .hchk blk xp
  cases i with
  | nop => cases h; exact .error _
  | start => exact execStart_access h
  | cancel => exact execCancel_access h
  | henc nib xp => cases h; exact .henc nib xp
  | hdec blk xp => exact hd blk xp h
  | hchk blk xp => exact hc blk xp h
  | rd a => cases h; exact .read a rfl
  | wrCmd w =>
    simp only [exec, execWrCmd] at h
    split at h
    · cases h; exact .error _
    · cases h; exact .error _
    · cases h; exact .error _
    · exact execStart_access h
    · exact execCancel_access h
    · cases h; exact .henc _ _
    · exact hd _ _ h
    · exact hc _ _ h
  | wrConfig v => exact lockedWrite_access (show execWrConfig v s = .next t from h) (.config _)
  | wrBps v => exact lockedWrite_access (show execWrBps v s = .next t from h) (.bps v)
  | wrLen v => exact lockedWrite_access (show execWrLen v s = .next t from h) (.len v)
  | wrPayload k v =>
    simp only [exec, execWrPayload] at h
    split at h
    · exact lockedWrite_access h (.payload _ _ ‹_›)
    · cases h; exact .same
  | wrIgnored a v => cases h; exact .same

end Sys2Proof.Machine
end

