-- ==== Sys2Proof/Laws/PerInstr.lean ====
section
/-! SUPPORT. For every instruction: its encoding lies in its own row of spec/opcode_table.json. -/

namespace Sys2Proof.Laws.EncodesInRow

/-- The bits spec/opcode_table.json numbers: the command word, or the bus code. -/
def tableBits : Encoding → Word
  | .command w => w
  | .bus code _ => code.setWidth 32

/-- The column `mask` of the instruction's row. -/
def rowMask : Instr → Word
  | .nop => 0xFFFFFFFF
  | .start => 0xFFFFFFFF
  | .cancel => 0xFFFFFFFF
  | .henc _ _ => 0xFFFEF0FF
  | .hdec _ _ => 0xFFFE00FF
  | .hchk _ _ => 0xFFFE00FF
  | .rd _ => 0x400
  | .wrCmd _ => 0x7FF
  | .wrConfig _ => 0x7FF
  | .wrBps _ => 0x7FF
  | .wrLen _ => 0x7FF
  | .wrPayload _ _ => 0x700
  | .wrIgnored _ _ => 0x400

/-- The column `match` of the instruction's row. -/
def rowMatch : Instr → Word
  | .nop => 0x00000000
  | .start => 0x00000001
  | .cancel => 0x00000002
  | .henc _ _ => 0x00000010
  | .hdec _ _ => 0x00000011
  | .hchk _ _ => 0x00000012
  | .rd _ => 0x000
  | .wrCmd _ => 0x400
  | .wrConfig _ => 0x402
  | .wrBps _ => 0x403
  | .wrLen _ => 0x404
  | .wrPayload _ _ => 0x500
  | .wrIgnored _ _ => 0x400

/-- The encoding of a well-formed instruction has the bits its row fixes, for the N_BUF the table is printed for. -/
def Statement (i : Instr) : Prop :=
  i.wellFormed Params.default.nBuf = true → tableBits (encode i) &&& rowMask i = rowMatch i

theorem nop : Statement .nop := by unfold Statement; decide

theorem start : Statement .start := by unfold Statement; decide

theorem cancel : Statement .cancel := by unfold Statement; decide

theorem henc (nib : BitVec 4) (xp : Bool) : Statement (.henc nib xp) := by
  intro _
  apply BitVec.eq_of_getLsbD_eq
  intro i hi
  simp only [encode, tableBits, rowMask, rowMatch, formatFE]
  interval_cases i <;> simp

theorem hdec (blk : Byte) (xp : Bool) : Statement (.hdec blk xp) := by
  intro _
  apply BitVec.eq_of_getLsbD_eq
  intro i hi
  simp only [encode, tableBits, rowMask, rowMatch, formatFB]
  interval_cases i <;> simp

theorem hchk (blk : Byte) (xp : Bool) : Statement (.hchk blk xp) := by
  intro _
  apply BitVec.eq_of_getLsbD_eq
  intro i hi
  simp only [encode, tableBits, rowMask, rowMatch, formatFB]
  interval_cases i <;> simp

theorem rd (a : WordAddr) : Statement (.rd a) := by
  intro _
  simp only [encode, tableBits, rowMask, rowMatch]
  revert a; decide +kernel

theorem wrCmd (w : Word) : Statement (.wrCmd w) := by
  intro _; simp only [encode, tableBits, rowMask, rowMatch]; decide

theorem wrConfig (v : Word) : Statement (.wrConfig v) := by
  intro _; simp only [encode, tableBits, rowMask, rowMatch]; decide

theorem wrBps (v : Word) : Statement (.wrBps v) := by
  intro _; simp only [encode, tableBits, rowMask, rowMatch]; decide

theorem wrLen (v : Word) : Statement (.wrLen v) := by
  intro _; simp only [encode, tableBits, rowMask, rowMatch]; decide

theorem wrPayload (k : BitVec 10) (v : Word) : Statement (.wrPayload k v) := by
  intro h
  simp only [Instr.wellFormed, Params.default] at h
  simp only [encode, tableBits, rowMask, rowMatch]
  revert k; decide +kernel

theorem wrIgnored (a : WordAddr) (v : Word) : Statement (.wrIgnored a v) := by
  intro h; clear h
  simp only [encode, tableBits, rowMask, rowMatch]
  revert a; decide +kernel

end Sys2Proof.Laws.EncodesInRow
end

