-- ==== Sys2Proof/Machine/WaitDone.lean ====
section
/-! DEFINITION. The host's loop WAITDONE (30_encoding.md R97): the one line of the host script whose length depends on
what the host reads. -/

namespace Sys2Proof.Machine

/-- `s` with a read of STATUS as the host access of its next tick (30_encoding.md R95, R97). -/
def State.readStatusNext (s : State) : State :=
  { s with host := accessIn false addrStatus 0 :: s.host.tail }

/-- WAITDONE: repeat `R STATUS`, one tick per read, until STATE is not 1 (30_encoding.md R97). `fuel` bounds the reads;
none where the loop has not ended within them, as it need not (44_scheduler.md R203), or where a tick stops (log 16). -/
def waitDone : Nat → State → Option State
  | 0, _ => none
  | fuel + 1, s =>
    match step s.readStatusNext with
    | .next t =>
      match t.hrdata with
      | some v => if v.extractLsb' 0 2 = Sched.running.code then waitDone fuel t else some t
      | none => none
    | .fault _ => none
    | .refused _ => none

end Sys2Proof.Machine
end

