-- ==== Sys2Proof/Tests/Slice0.lean ====
section
/-! SUPPORT. Tests: ill-formed terms refused, words decoded, single steps, and a witness for the hypotheses of every
obligation that has some. Expected values are those of 95_test_vectors.md and of the rules named, not the model's own
answers. -/

namespace Sys2Proof.Tests

open Sys2Proof.Machine

/-! ### Helpers -/

/-- A check on the next state. -/
def after (r : Result) (check : State → Bool) : Bool :=
  match r with
  | .next t => check t
  | .fault _ => false
  | .refused _ => false

/-- Runs one instruction after another. -/
def execAll : List Instr → State → Result
  | [], s => .next s
  | i :: is, s =>
    match exec i s with
    | .next t => execAll is t
    | .fault f => .fault f
    | .refused r => .refused r

/-- The host writes the command word `w`. -/
def cmdIn (w : Word) : HostIn := accessIn true addrCmd w

def sinkReady : SinkIn := { evReady := true, sinkErr := false }
def sinkBusy : SinkIn := { evReady := false, sinkErr := false }

/-- Reset, with BPS = 100: START is accepted, P = 10, LEN = 0, MODE 0. -/
def ready : State := { State.reset with bps := 100 }

/-- As `ready`, LEN = 1, PAYLOAD[0] = 0x41 (program P2 of 95_test_vectors.md before its START). -/
def readyA : State := { ready with len := 1, payload := [(0x400, 0x41)] }

/-- `ready` in a tick in which the host writes START and the sink is ready. -/
def startTick : State := { ready with host := [cmdIn 1], sink := [sinkReady] }

/-- A running transmission: level 1 of 17 is offered in this tick, the sink ready. -/
def offering : State :=
  { ready with
    sched := .running, levels := List.replicate 17 ⟨1, false⟩, total := 17, period := 10, index := 1, lvlOut := 1
    haveLast := true, last := 4, due := 14, now := 14, sink := [sinkReady] }

/-- As `offering`, a tick before the delay has run out. -/
def waiting : State := { offering with now := 13 }

/-- As `offering`, all levels emitted. -/
def completing : State := { offering with index := 17 }

/-- The bits of a string of digits. -/
def bits (l : List Nat) : Bits := l.map (fun n => n == 1)

/-! ### Well-formedness: an ill-formed term for each check -/

theorem test_wf_payload_last : (Instr.wrPayload 255 0).wellFormed 256 = true := by decide
theorem test_wf_payload_beyond : (Instr.wrPayload 256 0).wellFormed 256 = false := by decide
theorem test_wf_ignored_readonly : (Instr.wrIgnored addrStatus 0).wellFormed 256 = true := by decide
theorem test_wf_ignored_cmd : (Instr.wrIgnored addrCmd 0).wellFormed 256 = false := by decide
theorem test_wf_ignored_payload : (Instr.wrIgnored 0x1FF 0).wellFormed 256 = false := by decide
theorem test_wf_ignored_beyond : (Instr.wrIgnored 0x200 0).wellFormed 256 = true := by decide

/-! ### Decoding: words written bit by bit from 30_encoding.md R81 to R84 -/

theorem test_decode_nop : decodeCommand 0b0000000000000000_00000000_00000000 = some .nop := by decide
theorem test_decode_start : decodeCommand 0b0000000000000000_00000000_00000001 = some .start := by decide
theorem test_decode_cancel : decodeCommand 0b0000000000000000_00000000_00000010 = some .cancel := by decide
theorem test_decode_henc : decodeCommand 0b000000000000000_1_0000_1011_00010000 = some (.henc 0b1011 true) := by decide
theorem test_decode_hdec : decodeCommand 0b000000000000000_0_00110111_00010001 = some (.hdec 0b00110111 false) := by
  decide
theorem test_decode_hchk : decodeCommand 0b000000000000000_1_10000001_00010010 = some (.hchk 0b10000001 true) := by
  decide
theorem test_decode_rd : decodeBus 256 0b0_0000001001 7 = .rd addrLevel := by decide
theorem test_decode_wrCmd : decodeBus 256 0b1_0000000000 7 = .wrCmd 7 := by decide
theorem test_decode_wrConfig : decodeBus 256 0b1_0000000010 7 = .wrConfig 7 := by decide
theorem test_decode_wrBps : decodeBus 256 0b1_0000000011 7 = .wrBps 7 := by decide
theorem test_decode_wrLen : decodeBus 256 0b1_0000000100 7 = .wrLen 7 := by decide
theorem test_decode_wrPayload : decodeBus 256 0b1_0111111111 7 = .wrPayload 255 7 := by decide
theorem test_decode_wrIgnored : decodeBus 256 0b1_0000001001 7 = .wrIgnored addrLevel 7 := by decide

/-- The words of 95_test_vectors.md section 2.4 with a reserved-zero bit set, or a reserved opcode. -/
theorem test_decode_refused :
    ([0x00001010, 0x00020010, 0x00020011, 0x00000020, 0x00000013, 0x000000FF, 0x00000100, 0x00000101,
      0x00000102] : List Word).all (fun w => decodeCommand w == none) = true := by decide

theorem test_reserved_opcode_named : decodeRow 0x00000020 = .reservedOpcode := by decide
theorem test_reserved_bits_named : decodeRow 0x00000101 = .reservedBits := by decide

/-- No two rows of the opcode map select one word: their opcodes differ, and each row's mask holds the opcode byte. -/
theorem test_rows_disjoint : cmdRows.Pairwise (fun r q => r.opcode ≠ q.opcode) ∧
    ∀ r ∈ cmdRows, r.mask &&& 0xFF = 0xFF ∧ r.pattern = r.opcode.setWidth 32 := by decide

theorem test_table_word_command : decodeTableWord 32 0x00010B10 = some (.henc 0xB true) := by decide
theorem test_table_word_bus : decodeTableWord 16 0x403 = some (.wrBps 0) := by decide
theorem test_table_word_outside : decodeTableWord 16 0x800 = none := by decide

/-- The table's word runs as the first instruction after reset (BPS is still 0, so START is InvalidConfig). -/
theorem test_fetch_word : after (step (State.reset.withFetchWord 32 1)) (fun t => t.err == .invalidConfig) = true := by
  decide

/-! ### Reset -/

theorem test_reset_memory : State.reset.payload.wf = true ∧ State.reset.now = 0 ∧ State.reset.params.nBuf = 256 := by
  decide

/-! ### Commands -/

theorem test_nop : after (exec .nop { ready with err := .invalidCommand }) (fun t => t == ready) = true := by decide

/-- 95_test_vectors.md P2, tick 4; and 0x41, 0x0F in MODE 1: the bytes in rising index, the clock bit k mod 2
(42_frame.md R150, R151, 43_modulator.md R168). -/
theorem test_start : after (exec .start readyA) (fun t => t.total == 25 && t.period == 10 && t.sched == .running &&
      t.levels == (bits [1, 1, 1, 1, 0, 0, 1, 1, 0, 1, 0, 0, 0, 0, 0, 1, 0, 0, 0, 0, 1, 0, 1, 0, 1]).map
        (fun b => ⟨if b then 1 else 0, false⟩)) = true ∧
    after (exec .start { readyA with config := 1, len := 2, payload := [(0x400, 0x41), (0x404, 0x0F)] }) (fun t =>
      t.levels.map Level.level == [1, 1, 1, 1, 0, 0, 1, 1, 0, 1, 0, 0, 0, 0, 0, 1, 0, 0, 0, 0, 1, 1, 1, 1,
        0, 0, 0, 0, 1, 0, 1, 0, 1] &&
      (t.levels.take 4).map Level.clk == [false, true, false, true]) = true := by
  decide

/-- 95_test_vectors.md 5.1: the MODE check comes before the LEN check. -/
theorem test_start_checks_in_order :
    after (exec .start { ready with config := 7, len := 257 }) (fun t => t.err == .invalidConfig) = true ∧
    after (exec .start { ready with len := 257 }) (fun t => t.err == .invalidInput) = true ∧
    after (exec .start { ready with bps := 2000 }) (fun t => t.err == .invalidConfig) = true ∧
    after (exec .start { ready with bps := 3 }) (fun t => t.err == .ok && t.period == 333) = true ∧
    after (exec .start offering) (fun t => t.err == .transmissionInProgress && t.index == 1) = true := by
  decide

/-- 95_test_vectors.md 5.3. -/
theorem test_cancel : after (exec .cancel offering) (fun t => t.sched == .done && t.cancelled && t.index == 1) = true := by
  decide
theorem test_cancel_idle : after (exec .cancel ready) (fun t => t == ready) = true := by decide

/-- 95_test_vectors.md 2.1 and 2.4. -/
theorem test_henc : after (exec (.henc 0xB false) ready) (fun t => t.codecRes == 0x00000033) = true ∧
    after (exec (.henc 0xB true) ready) (fun t => t.codecRes == 0x00010066) = true := by decide

/-- 95_test_vectors.md 2.2, tables A, B and C. -/
theorem test_hdec : after (exec (.hdec 0x23 false) ready) (fun t => t.codecRes == 0x0000A30B) = true ∧
    after (exec (.hdec 0x67 true) ready) (fun t => t.codecRes == 0x0001B00B) = true ∧
    after (exec (.hdec 0x65 true) ready) (fun t => t.codecRes == 0x0001C70A) = true := by decide
theorem test_hdec_bad_operand :
    after (exec (.hdec 0xB3 false) ready) (fun t => t.codecRes == 0 && t.err == .invalidInput) = true := by decide

theorem test_hchk : after (exec (.hchk 0x7F true) ready) (fun t => t.codecRes == 0x00019100) = true ∧
    after (exec (.hchk 0x32 false) ready) (fun t => t.codecRes == 0x00008700) = true := by decide
theorem test_hchk_bad_operand :
    after (exec (.hchk 0x80 false) ready) (fun t => t.codecRes == 0 && t.err == .invalidInput) = true := by decide

/-! ### Bus accesses (95_test_vectors.md section 6) -/

theorem test_rd_status : after (exec (.rd addrStatus) { offering with err := .transmissionInProgress })
    (fun t => t.hrdata == some 0x00000031) = true := by decide
theorem test_rd_unmapped : after (exec (.rd 0x00A) offering) (fun t => t.hrdata == some 0) = true ∧
    after (exec (.rd addrCmd) offering) (fun t => t.hrdata == some 0) = true ∧
    after (exec (.rd 0x200) offering) (fun t => t.hrdata == some 0) = true := by decide

theorem test_wrCmd : after (exec (.wrCmd 0x00003711) ready) (fun t => t.codecRes == 0x0000A50B) = true := by decide
theorem test_wrCmd_invalid : after (exec (.wrCmd 0x00000101) ready)
    (fun t => t == { ready with err := .invalidCommand }) = true := by decide

theorem test_wrConfig : after (execAll [.wrConfig 0xFFFFFFFF, .rd addrConfig] ready)
    (fun t => t.hrdata == some 0x0000001F) = true := by decide
theorem test_wrBps_clears_err : after (exec (.wrBps 7) { ready with err := .invalidCommand })
    (fun t => t.err == .ok && t.bps == 7) = true := by decide
theorem test_wrLen_locked : after (exec (.wrLen 5) offering)
    (fun t => t == { offering with err := .transmissionInProgress }) = true := by decide
theorem test_wrPayload : after (execAll [.wrPayload 0 0x1234, .rd 0x100] ready)
    (fun t => t.hrdata == some 0x00000034) = true := by decide
theorem test_wrPayload_twice : after (execAll [.wrPayload 3 1, .wrPayload 1 2, .wrPayload 3 4] ready)
    (fun t => t.payload == [(0x404, 2), (0x40C, 4)]) = true := by decide
theorem test_wrIgnored : after (exec (.wrIgnored addrStatus 0xFFFFFFFF) { ready with err := .invalidCommand })
    (fun t => t == { ready with err := .invalidCommand }) = true := by decide

/-! ### Codec streams, frames, levels -/

/-- 95_test_vectors.md 2.3, the stream round trip. -/
theorem test_stream_encode : hamEncodeStream (bits [0, 1, 0, 0, 0, 0, 0, 1]) false =
    some (bits [1, 0, 0, 1, 1, 0, 0, 1, 1, 0, 1, 0, 0, 1]) := by decide
theorem test_stream_decode : hamDecodeStream (bits [1, 0, 1, 1, 1, 0, 0, 1, 1, 0, 1, 0, 0, 0]) false =
    some (bits [0, 1, 0, 0, 0, 0, 0, 1], .corrected) := by decide
/-- 41_hamming.md R141, R142, R143: a length that is no multiple fails. -/
theorem test_stream_bad_length : hamEncodeStream (bits [1, 0, 1]) false = none ∧
    hamDecodeStream (bits [1, 0, 1]) false = none ∧ hamCheckStream (bits [1, 0, 1]) true = none := by decide
theorem test_stream_check : hamCheckStream (bits [1, 0, 0, 1, 1, 0, 0, 1, 1, 0, 1, 0, 0, 1]) false = some false ∧
    hamCheckStream (bits [1, 0, 0, 1, 1, 0, 1, 1, 1, 0, 1, 0, 0, 1]) false = some true := by decide

/-- 95_test_vectors.md section 3. -/
theorem test_frame_plain : frameBits [0x41] false true =
    bits [1, 1, 1, 1, 0, 0, 1, 1, 0, 1, 0, 0, 0, 0, 0, 1, 0, 0, 0, 0, 1, 0, 1, 0, 1] := by decide
theorem test_frame_coded : frameBits [0x41] true true =
    bits [1, 1, 1, 1, 0, 0, 1, 1, 1, 0, 0, 1, 1, 0, 0, 1, 1, 1, 0, 1, 0, 0, 1, 0, 0, 0, 0, 0, 1, 0, 1, 0, 1] := by
  decide

/-- 95_test_vectors.md section 4. -/
theorem test_mode1 : modulate .clockInterleaved (bits [1, 1, 0, 1]) =
    [⟨1, false⟩, ⟨1, true⟩, ⟨0, false⟩, ⟨1, true⟩] := by decide
theorem test_mode2 : modulate .brightness2bit (bits [1, 1, 0, 1]) = [⟨255, false⟩, ⟨85, false⟩] := by decide
theorem test_mode2_pad : modulate .brightness2bit (bits [1, 0, 1]) = [⟨170, false⟩, ⟨255, false⟩] := by decide
theorem test_mode3 : modulate .brightnessWithClock (bits [0, 1, 0, 1]) =
    [⟨0, false⟩, ⟨255, true⟩, ⟨0, false⟩, ⟨255, true⟩] := by decide

/-! ### The tick -/

/-- 95_test_vectors.md P2, tick 4: the first level is emitted in the tick of the START. -/
theorem test_tick_start : after (step { readyA with now := 4, host := [cmdIn 1], sink := [sinkReady] })
    (fun t => t.event == some ⟨0, 1, false, 4⟩ && t.due == 14 && t.index == 1 && t.now == 5) = true := by decide

/-- 44_scheduler.md R206: P = 100, 30 ticks late: the next delay is 70. -/
theorem test_tick_drift : after (step { offering with period := 100, last := 3, due := 103, now := 133 })
    (fun t => t.due == 203) = true := by decide

/-- 95_test_vectors.md 5.2: P = 10, gap 35: d is 0, and the next offer is one tick later. -/
theorem test_tick_clamp : after (step { offering with now := 39 }) (fun t => t.due == 40) = true := by decide

/-- 95_test_vectors.md P2, tick 254: the read precedes the engine step that sets Done. -/
theorem test_tick_read_before_engine : after (step { completing with host := [accessIn false addrStatus 0] })
    (fun t => t.hrdata == some 1 && t.sched == .done) = true := by decide

/-- 10_state.md R31: a tick at NOW = 2^64 - 1 is refused, but for a reset tick. -/
theorem test_tick_refused : step { ready with now := 2 ^ 64 - 1 } = .refused .timeExhausted := by rfl
theorem test_tick_reset : after (step { offering with host := [{ HostIn.idle with rst := true }] })
    (fun t => t.sched == .idle && t.bps == 0 && t.now == 0) = true := by decide

/-! ### Host scripts (30_encoding.md R95 to R97; the lines of program P3) -/

theorem test_script : assemble [.write .bps 250, cfgLine 3 1 0, .cmd .start, .idle 1, .read (.byteAddress 0x010)] =
    some [accessIn true addrBps 250, accessIn true addrConfig 0x0000000B, accessIn true addrCmd 1, HostIn.idle,
      accessIn false addrLen 0] := by decide
theorem test_script_refused : assemble [.cmd (.hdec 128 false)] = none ∧ assemble [.cmd (.henc 16 true)] = none ∧
    assemble [.read (.byteAddress 0x402)] = none := by decide
theorem test_waitdone : (waitDone 2 completing).map (fun t => (t.sched, t.now)) = some (.done, 16) ∧
    waitDone 1 completing = none := by decide

/-! ### Witnesses: for every obligation with hypotheses, states and operands that meet them all -/

theorem ready_startable : ready.Startable := ⟨by decide, by decide, by decide, by decide, by decide⟩
theorem startTick_startable : startTick.Startable := ⟨by decide, by decide, by decide, by decide, by decide⟩
theorem startTick_ordinary : startTick.Ordinary := ⟨by decide, by decide⟩
theorem startTick_fetch : startTick.fetch = some (.wrCmd 1) := by decide
theorem startTick_performed : (Instr.wrCmd 1).performed = .start := by decide
theorem reset_legal : Params.default.Legal := by decide
theorem offering_offering : offering.Offering := ⟨rfl, .inr ⟨rfl, by decide, by decide⟩⟩
theorem waiting_waiting : waiting.Waiting := ⟨rfl, rfl, by decide⟩
theorem completing_completing : completing.Completing := ⟨rfl, rfl, by decide, rfl⟩

/-- The invariant holds in a state in the middle of a transmission. -/
theorem offering_inv : offering.Inv where
  regs := ⟨by decide, by decide, by decide, by decide, by decide⟩
  payload := ⟨rfl, by decide⟩
  session := ⟨by decide, by decide, by decide, by decide, by decide, by decide⟩
  running := fun _ => ⟨by decide, by decide, by decide, by decide, by decide, by decide, by decide, by decide⟩
  ports := ⟨by decide, by decide, by decide, by decide⟩

theorem witness_ResetTickOverridesTheTick :
    ({ offering with host := [{ cmdIn 1 with rst := true }] } : State).hostIn.rst = true := by decide

theorem witness_StepRunsTheDecodedAccess :
    (startTick.Ordinary ∧ startTick.hostIn.hsel = true ∧
      decodeBus startTick.params.nBuf (busCode startTick.hostIn.hwrite startTick.hostIn.haddr)
        startTick.hostIn.hwdata = .wrCmd 1) ∧
    (offering.Ordinary ∧ offering.hostIn.hsel = false) := by
  exact ⟨⟨startTick_ordinary, by decide, by decide⟩, ⟨by decide, by decide⟩, by decide⟩

/-- Both sides of the refusal: NOW = 2^64 - 2 still steps, NOW = 2^64 - 1 does not. -/
theorem witness_NowAdvancesByOneUntilRefused :
    (∃ t, step { ready with now := 2 ^ 64 - 2 } = .next t) ∧ ({ ready with now := 2 ^ 64 - 2 } : State).hostIn.rst = false ∧
    step { ready with now := 2 ^ 64 - 1 } = .refused .timeExhausted := ⟨⟨_, rfl⟩, rfl, rfl⟩

def readTick : State := { completing with host := [accessIn false addrStatus 0] }

theorem witness_ReadReturnsTheAddressedRegister_tick : readTick.Ordinary ∧ readTick.hostIn.hsel = true ∧
    readTick.hostIn.hwrite = false ∧ readTick.hostIn.haddr = addrStatus ∧ ∃ t, step readTick = .next t :=
  ⟨⟨by decide, by decide⟩, by decide, by decide, by decide, _, rfl⟩

/-- N_BUF at both ends of its range, with the last PAYLOAD byte and the first address beyond it. -/
theorem witness_DecodeEncodeAgree : (Params.mk 1 1).Legal ∧ (Params.mk 768 (2 ^ 32 - 1)).Legal ∧
    (Instr.wrPayload 0 5).wellFormed 1 = true ∧ (Instr.wrPayload 767 5).wellFormed 768 = true ∧
    (Instr.wrIgnored 0x101 5).wellFormed 1 = true ∧ (Instr.wrIgnored 0x0FF 5).wellFormed 768 = true := by decide

theorem witness_EveryDecodedWordIsTheEncodingOfItsInstruction :
    decodeCommand 0x0001FF11 = some (.hdec 0xFF true) ∧ (0x7FF : BusCode).getLsbD 10 = true := by decide

/-- One word for each clause, the reserved bits at the ends of their fields. -/
theorem witness_UndefinedCommandWordsAreInvalidCommand :
    (0x00000003#32).extractLsb' 0 8 ∉ [0x00#8, 0x01#8, 0x02#8, 0x10#8, 0x11#8, 0x12#8] ∧
    ((0x80000000#32).extractLsb' 0 8 ∈ [0x00#8, 0x01#8, 0x02#8] ∧ (0x80000000#32).extractLsb' 8 24 ≠ 0) ∧
    ((0x00001010#32).extractLsb' 0 8 = 0x10#8 ∧ (0x00001010#32).extractLsb' 12 4 ≠ 0) ∧
    ((0x00020010#32).extractLsb' 0 8 = 0x10#8 ∧ (0x00020010#32).extractLsb' 17 15 ≠ 0) ∧
    ((0x00020012#32).extractLsb' 0 8 ∈ [0x11#8, 0x12#8] ∧ (0x00020012#32).extractLsb' 17 15 ≠ 0) := by decide

theorem witness_CommandWritePerformsTheDecodedCommand :
    decodeCommand 0x00000002 = some .cancel ∧ decodeCommand 0x00000003 = none := by decide

theorem witness_NopSetsErrToOk : (0x80000000 : Word).extractLsb' 0 8 = 0 ∧ (0x80000000 : Word) ≠ 0 := by decide

theorem witness_CancelEndsARunningTransmission : offering.sched = .running ∧ ready.sched ≠ .running := by decide

/-- The largest accepted configuration: MODE 3, BPS = TICK_HZ, LEN = N_BUF. -/
theorem witness_StartBeginsATransmission : ready.Startable ∧
    ({ ready with config := 3, bps := 1000, len := 256 } : State).Startable :=
  ⟨ready_startable, by decide, by decide, by decide, by decide, by decide⟩

theorem readyA_startable : readyA.Startable := ⟨by decide, by decide, by decide, by decide, by decide⟩

/-- A startable state in each mode, and its last payload byte, written. -/
theorem witness_StartBeginsATransmission_modes :
    (∀ c : BitVec 5, (c.extractLsb' 0 3).toNat ≤ 3 → ({ readyA with config := c } : State).Startable) ∧
    ((0 : BitVec 5).extractLsb' 0 3 = 0 ∧ (1 : BitVec 5).extractLsb' 0 3 = 1 ∧ (2 : BitVec 5).extractLsb' 0 3 = 2 ∧
      (3 : BitVec 5).extractLsb' 0 3 = 3) ∧
    0 < readyA.len.toNat ∧ readyA.payload.get? (0x400 + 4 * 0) = some 0x41 :=
  ⟨fun _ hc => ⟨readyA_startable.1, hc, readyA_startable.3, readyA_startable.4, readyA_startable.5⟩, by decide, by decide,
    by decide⟩

/-- One state for each failing check, at the boundary of the check. -/
theorem witness_StartRejectsByTheFirstFailingCheck :
    offering.sched = .running ∧
    (ready.sched ≠ .running ∧ 4 ≤ ({ ready with config := 4 } : State).modeField.toNat) ∧
    ({ ready with config := 3, bps := 1001 } : State).modeField.toNat ≤ 3 ∧ 1000 / (1001#32).toNat = 0 ∧
    ({ ready with config := 3, bps := 0 } : State).bps = 0 ∧
    (ready.bps ≠ 0 ∧ ready.params.tickHz / ready.bps.toNat ≠ 0 ∧
      ready.params.nBuf < ({ ready with len := 257 } : State).len.toNat) := by decide

theorem witness_StartSetsTotalAndPeriod : readyA.params.Legal ∧ readyA.Startable ∧ ∃ t, exec .start readyA = .next t :=
  ⟨reset_legal, readyA_startable, _, rfl⟩

/-- The hypothesis of HDEC, HCHK and the codeword law: with XP any block, without it the blocks up to 0x7F; 0x80 is the
first bad operand. -/
theorem witness_block_operands : (true = true ∨ (0xFF : Byte).getLsbD 7 = false) ∧
    (false = true ∨ (0x7F : Byte).getLsbD 7 = false) ∧ (0x80 : Byte).getLsbD 7 = true := by decide

/-- The address ranges of RegRead at their ends. -/
theorem witness_ReadReturnsTheAddressedRegister :
    after (exec (.rd 0x009) offering) (fun t => t.hrdata == some 1) = true ∧
    after (exec (.rd 0x00A) offering) (fun t => t.hrdata == some 0) = true ∧
    after (exec (.rd 0x0FF) readyA) (fun t => t.hrdata == some 0) = true ∧
    after (exec (.rd 0x100) readyA) (fun t => t.hrdata == some 0x41) = true ∧
    after (exec (.rd 0x1FF) { readyA with payload := [(0x7FC, 9)] }) (fun t => t.hrdata == some 9) = true ∧
    after (exec (.rd 0x200) { readyA with payload := [(0x800, 9)] }) (fun t => t.hrdata == some 0) = true := by decide

theorem witness_RegisterWritesStoreTheirFields : ready.sched ≠ .running ∧ ready.params.nBuf < (257 : Word).toNat := by
  decide

/-- The address ranges of the ignored write at their ends, N_BUF = 256 and N_BUF = 768. -/
theorem witness_IgnoredWriteChangesNothing :
    4 * (0x009 : WordAddr).toNat ∈ [0x004, 0x014, 0x018, 0x01C, 0x020, 0x024] ∧
    (0x028 ≤ 4 * (0x00A : WordAddr).toNat ∧ 4 * (0x0FF : WordAddr).toNat < 0x400) ∧
    0x400 + 4 * 256 ≤ 4 * (0x200 : WordAddr).toNat ∧ ¬ 0x400 + 4 * 768 ≤ 4 * (0x3FF : WordAddr).toNat := by decide

/-- PAYLOAD[0] and PAYLOAD[N_BUF - 1]; another byte and another address. -/
theorem witness_PayloadWrites : ready.params.Legal ∧ ready.sched ≠ .running ∧ (0 : BitVec 10).toNat < ready.params.nBuf ∧
    (255 : BitVec 10).toNat < ready.params.nBuf ∧ 0x404 ≠ 0x400 + 4 * (0 : BitVec 10).toNat := by decide

theorem witness_RegistersAreLockedWhileRunning :
    offering.sched = .running ∧ (255 : BitVec 10).toNat < offering.params.nBuf := by decide

theorem witness_FrameOfNopCancelAndCodec :
    (∃ t, exec .nop offering = .next t) ∧ (∃ t, exec .cancel offering = .next t) ∧
    (∃ t, exec (.henc 5 true) offering = .next t) ∧ (∃ t, exec (.hdec 0x80 false) offering = .next t) ∧
    (∃ t, exec (.hchk 5 true) offering = .next t) := ⟨⟨_, rfl⟩, ⟨_, rfl⟩, ⟨_, rfl⟩, ⟨_, rfl⟩, _, rfl⟩

theorem witness_FrameOfStart : (∃ t, exec .start readyA = .next t) ∧ ∃ t, exec .start offering = .next t :=
  ⟨⟨_, rfl⟩, _, rfl⟩

theorem witness_FrameOfBusAccesses :
    (∃ t, exec (.rd 0x100) readyA = .next t) ∧ (∃ t, exec (.wrConfig 3) ready = .next t) ∧
    (∃ t, exec (.wrBps 3) ready = .next t) ∧ (∃ t, exec (.wrLen 3) ready = .next t) ∧
    (∃ t, exec (.wrPayload 255 3) ready = .next t) ∧ (∃ t, exec (.wrIgnored 1 3) ready = .next t) ∧
    0x400 ≠ payloadAddr (255 : BitVec 10).toNat :=
  ⟨⟨_, rfl⟩, ⟨_, rfl⟩, ⟨_, rfl⟩, ⟨_, rfl⟩, ⟨_, rfl⟩, ⟨_, rfl⟩, by decide⟩

/-- A rejected command, and a read that finds an old code. -/
theorem witness_RejectionIsPrecise : (∃ t, exec .start State.reset = .next t ∧ t.err ≠ .ok) ∧
    ∃ t, exec (.rd 1) { State.reset with err := .invalidConfig } = .next t ∧ t.err ≠ .ok :=
  ⟨⟨_, rfl, by decide⟩, _, rfl, by decide⟩

theorem witness_ErrIsTheOutcomeOfTheLastWrite :
    (∃ t, exec (.rd 1) offering = .next t) ∧ (∃ t, exec (.wrIgnored 1 3) offering = .next t) ∧
    (∃ t, engineStep sinkReady offering = .next t) ∧
    ((Instr.wrLen 5).wellFormed offering.params.nBuf = true ∧ (∀ a, Instr.wrLen 5 ≠ .rd a) ∧
      (∀ a v, Instr.wrLen 5 ≠ .wrIgnored a v) ∧ ∃ t, exec (.wrLen 5) offering = .next t) :=
  ⟨⟨_, rfl⟩, ⟨_, rfl⟩, ⟨_, rfl⟩, rfl, nofun, nofun, _, rfl⟩

theorem witness_FlagsHaveOnlyTheListedWriters :
    (∃ t, exec (.wrBps 5) ready = .next t ∧ (Instr.wrBps 5).performed ≠ .start ∧ (Instr.wrBps 5).performed ≠ .cancel) ∧
    (∃ t, engineStep { evReady := true, sinkErr := true } offering = .next t ∧ t.sinkErr ≠ offering.sinkErr) ∧
    (∃ t, engineStep sinkReady completing = .next t ∧ t.sched ≠ completing.sched) :=
  ⟨⟨_, rfl, by decide, by decide⟩, ⟨_, rfl, by decide⟩, _, rfl, by decide⟩

/-- The four clauses: Idle stays Idle; Idle does not become Done; a START; a CANCEL, and a completion. -/
theorem witness_StateTransitionsAreTheListedOnes :
    (ready.sched = .idle ∧ ∃ t, step ready = .next t ∧ t.sched = .idle) ∧
    (startTick.Ordinary ∧ ∃ t, step startTick = .next t ∧ startTick.sched ≠ .running ∧ t.sched = .running) ∧
    (∃ t, step { offering with host := [cmdIn 2] } = .next t ∧ t.sched ≠ .running) ∧
    (completing.Ordinary ∧ ∃ t, step completing = .next t ∧ completing.sched = .running ∧ t.sched ≠ .running) :=
  ⟨⟨rfl, _, rfl, rfl⟩, ⟨startTick_ordinary, _, rfl, by decide, rfl⟩, ⟨_, rfl, by decide⟩,
    ⟨by decide, by decide⟩, _, rfl, rfl, by decide⟩

theorem witness_TransmissionInFlightIsImmutable : offering.sched = .running ∧ (Instr.wrLen 5).performed ≠ .cancel ∧
    ∃ t, exec (.wrLen 5) offering = .next t := ⟨rfl, by decide, _, rfl⟩

theorem witness_EngineIgnoresTheHostRegisters : ∃ t, engineStep sinkReady offering = .next t := ⟨_, rfl⟩

/-- Positions 1 and 8 of a block, the ends of the range. -/
theorem witness_HdecErrors : (∃ t, exec (.henc 0xB true) ready = .next t) ∧ 0 < 7 + true.toNat ∧ 7 < 7 + true.toNat ∧
    6 < 7 + false.toNat := ⟨⟨_, rfl⟩, by decide, by decide, by decide⟩

/-- Lengths one short of a whole nibble and of a whole block, and a whole block. -/
theorem witness_stream_lengths : (bits [1, 0, 1]).length % 4 ≠ 0 ∧ (List.replicate 6 true).length % (7 + false.toNat) ≠ 0 ∧
    (List.replicate 7 true).length % (7 + true.toNat) ≠ 0 ∧ (List.replicate 8 true).length % (7 + true.toNat) = 0 := by
  decide

/-- The stream of section 2.3 of 95_test_vectors.md, with bit 3 of block 1 and bit 7 of block 2 flipped. -/
theorem witness_StreamRoundTripsWithOneFlipPerBlock :
    let y := bits [1, 0, 0, 1, 1, 0, 0, 1, 1, 0, 1, 0, 0, 1]
    let y' := bits [1, 0, 1, 1, 1, 0, 0, 1, 1, 0, 1, 0, 0, 0]
    (bits [0, 1, 0, 0, 0, 0, 0, 1]).length % 4 = 0 ∧
      hamEncodeStream (bits [0, 1, 0, 0, 0, 0, 0, 1]) false = some y ∧ y'.length = y.length ∧
      y.length / 7 = 2 ∧ (y'.drop 0).take 7 = flipAt ((y.drop 0).take 7) 3 ∧
      (y'.drop 7).take 7 = flipAt ((y.drop 7).take 7) 7 := by decide

theorem witness_PayloadOrderInTheFrame : 1 < [(0xF3 : Byte), 0x00].length ∧ 7 < 8 := by decide

theorem witness_HencBlocksAreFarApart : (0x0 : BitVec 4) ≠ 0xF := by decide

theorem witness_LevelsByIndex : (bits [1, 0, 1])[2]? = some true ∧ 1 < ((bits [1, 0, 1]).length + 1) / 2 := by decide

theorem witness_EngineIsQuietWhenNotOffering :
    ready.sched ≠ .running ∧ waiting.Waiting ∧ completing.Completing :=
  ⟨by decide, waiting_waiting, completing_completing⟩

/-- For the four statements on an offered level, in both phases. -/
theorem witness_emissions : offering.Offering ∧ ({ offering with phase := .offer } : State).Offering ∧
    offering.levels[offering.index.toNat]? = some ⟨1, false⟩ ∧ offering.now < 2 ^ 64 ∧
    (∃ t, engineStep sinkReady offering = .next t) ∧ offering.haveLast = true ∧ offering.last ≤ offering.now ∧
    ({ offering with haveLast := false } : State).haveLast = false :=
  ⟨offering_offering, ⟨rfl, .inl rfl⟩, by decide, by decide, ⟨_, rfl⟩, rfl, by decide, rfl⟩

/-- The two clauses meet at a gap of 2P - 1 = 19 and 2P = 20. -/
theorem witness_TwoGapsSumToTwoPeriods :
    ({ offering with now := 23 } : State).now - offering.last + 1 ≤ 2 * offering.period.toNat ∧
    2 * offering.period.toNat ≤ ({ offering with now := 24 } : State).now - offering.last := by decide

theorem witness_SinkErrorsAreNotFatal : ∃ t, engineStep { evReady := true, sinkErr := false } offering = .next t :=
  ⟨_, rfl⟩

theorem witness_CancelTickEmitsNothing :
    let s : State := { offering with host := [cmdIn 2] }
    s.Ordinary ∧ s.sched = .running ∧ s.fetch = some (.wrCmd 2) ∧ (Instr.wrCmd 2).performed = .cancel :=
  ⟨⟨by decide, by decide⟩, rfl, by decide, by decide⟩

theorem witness_FirstLevelIsOfferedInTheStartTick : startTick.Ordinary ∧ startTick.params.Legal ∧ startTick.Startable ∧
    startTick.fetch = some (.wrCmd 1) ∧ (Instr.wrCmd 1).performed = .start ∧ startTick.sinkIn.evReady = true ∧
    ({ startTick with sink := [sinkBusy] } : State).sinkIn.evReady = false :=
  ⟨startTick_ordinary, reset_legal, startTick_startable, startTick_fetch, startTick_performed, rfl, rfl⟩

theorem witness_IndexCountsTheEmissions :
    (startTick.Ordinary ∧ ∃ t, step startTick = .next t) ∧ (offering.Ordinary ∧ ∃ t, step offering = .next t) :=
  ⟨⟨startTick_ordinary, _, rfl⟩, ⟨by decide, by decide⟩, _, rfl⟩

theorem witness_EveryStepKeepsTheInvariant : offering.Inv ∧ ∃ t, step offering = .next t := ⟨offering_inv, _, rfl⟩

theorem witness_NoFaultUnderTheInvariant : offering.Inv ∧ offering.Ordinary ∧
    ({ offering with host := [{ HostIn.idle with rst := true }] } : State).hostIn.rst = true :=
  ⟨offering_inv, ⟨by decide, by decide⟩, rfl⟩

/-- Accesses after a START that let it run: a read, a write refused while Running, a second START. -/
def meanwhile : List HostIn := [accessIn false addrIndex 0, accessIn true addrLen 5, cmdIn 1]

theorem meanwhile_letsRun : ∀ h ∈ meanwhile, h.LetsRun 256 := by
  intro h hh
  have : h = accessIn false addrIndex 0 ∨ h = accessIn true addrLen 5 ∨ h = cmdIn 1 := by simpa [meanwhile] using hh
  rcases this with rfl | rfl | rfl <;> exact ⟨rfl, fun _ => by decide⟩

/-- `startTick` with the sink ready in each of 171 ticks: 17 levels of P = 10, and the tick of Done. -/
theorem witness_ZeroLatencyTiming :
    let s : State := { startTick with host := cmdIn 1 :: meanwhile, sink := List.replicate 171 sinkReady }
    s.params.Legal ∧ s.Startable ∧ s.hostIn.rst = false ∧ s.fetch = some (.wrCmd 1) ∧
      (Instr.wrCmd 1).performed = .start ∧ (s.planLevels s.mode).length = 17 ∧ s.nominalPeriod = 10 ∧
      s.now + 17 * 10 + 1 < 2 ^ 64 ∧ (∀ h ∈ s.host.tail, h.LetsRun s.params.nBuf) ∧ s.SinkReady 171 :=
  ⟨reset_legal, ⟨by decide, by decide, by decide, by decide, by decide⟩, rfl, by decide, by decide, by decide, by decide,
    by decide, meanwhile_letsRun, fun k hk => ⟨false, (List.getElem?_replicate ..).trans (if_pos hk)⟩⟩

/-- Two ticks: the START, and a second START, which is rejected and so does not restart. -/
theorem witness_EmissionOrderIsTheLevelOrder :
    let s : State := { startTick with host := [cmdIn 1, cmdIn 1], sink := List.replicate 2 sinkReady }
    s.params.Legal ∧ s.Startable ∧ s.hostIn.rst = false ∧ s.fetch = some (.wrCmd 1) ∧
      (∀ m u fs, 0 < m → m < 2 → runEvents m s = some (u, fs) → ¬ u.Restarts) ∧
      ∃ t es, runEvents 2 s = some (t, es) := by
  refine ⟨reset_legal, ⟨by decide, by decide, by decide, by decide, by decide⟩, rfl, by decide, ?_, _, _, rfl⟩
  intro m u fs h0 h2 hr
  obtain rfl : m = 1 := by omega
  obtain ⟨rfl, -⟩ := Prod.mk.inj (Option.some.inj hr)
  rintro (h | ⟨h, -⟩)
  · exact absurd h (by decide)
  · exact h.notRunning rfl

/-- The shortest transmission, 9 levels of MODE 2 with P = 1, runs to its end in 10 ticks. -/
theorem witness_EmissionOrderIsTheLevelOrder_done :
    let s : State := { startTick with config := 2, bps := 1000, sink := List.replicate 10 sinkReady }
    s.params.Legal ∧ s.Startable ∧ s.hostIn.rst = false ∧ s.fetch = some (.wrCmd 1) ∧
      (∀ m u fs, 0 < m → m < 10 → runEvents m s = some (u, fs) → ¬ u.Restarts) ∧
      ∃ t es, runEvents 10 s = some (t, es) ∧ t.sched = .done ∧ t.cancelled = false := by
  refine ⟨reset_legal, ⟨by decide, by decide, by decide, by decide, by decide⟩, rfl, by decide, ?_, _, _, rfl, rfl, rfl⟩
  intro m u fs h0 h2 hr
  interval_cases m <;>
    (obtain ⟨rfl, -⟩ := Prod.mk.inj (Option.some.inj hr)
     rintro (h | ⟨-, i, h, -⟩)
     · exact absurd h (by decide)
     · exact absurd h nofun)

theorem witness_BusySinkHangsTheTransmission :
    let s : State := { offering with host := meanwhile, sink := List.replicate 4 sinkBusy }
    s.Offering ∧ s.levels[s.index.toNat]? = some ⟨1, false⟩ ∧ (∀ h ∈ s.host, h.LetsRun s.params.nBuf) ∧
      s.SinkBusy 4 ∧ s.now + 3 + 1 < 2 ^ 64 :=
  ⟨⟨rfl, .inr ⟨rfl, by decide, by decide⟩⟩, by decide, meanwhile_letsRun, fun k hk =>
    ⟨false, (List.getElem?_replicate ..).trans (if_pos hk)⟩, by decide⟩

end Sys2Proof.Tests
end

/-! SUPPORT. An access by the command it performs: its meaning, that it always completes, and what it can write. -/

namespace Sys2Proof.Machine

/-! ### The command an access performs -/

theorem exec_wrCmd_of_decode {w : Word} {j : Instr} (h : decodeCommand w = some j) (s : State) :
    exec (.wrCmd w) s = exec j s := by
  obtain ⟨r, hr, rfl⟩ := decodeCommand_eq_some.1 h
  rw [exec_wrCmd, execWrCmd, decodeRow_eq_row.2 hr]
  cases r <;> rfl

theorem exec_wrCmd_invalid {w : Word} (h : decodeCommand w = none) (s : State) :
    exec (.wrCmd w) s = reject .invalidCommand s := by
  rw [exec_wrCmd, execWrCmd]
  cases hw : decodeRow w with
  | row r => simp [decodeCommand, hw] at h
  | reservedOpcode => rfl
  | reservedBits => rfl

/-- A write to CMD is the command its word names, so an access and what it performs have one meaning
(40_commands.md R110). -/
theorem exec_performed (i : Instr) (s : State) : exec i s = exec i.performed s := by
  cases i with
  | wrCmd w =>
    cases hw : decodeCommand w with
    | none => simp [Instr.performed, hw]
    | some j => rw [performed_wrCmd hw, exec_wrCmd_of_decode hw]
  | _ => rfl

/-- No command is itself a write to CMD: an access that performs one names no command. -/
theorem decodeCommand_of_performed_wrCmd {i : Instr} {w : Word} (h : i.performed = .wrCmd w) :
    decodeCommand w = none := by
  cases i with
  | wrCmd u =>
    cases hu : decodeCommand u with
    | none =>
      obtain rfl : u = w := by simpa [Instr.performed, hu] using h
      exact hu
    | some j =>
      obtain ⟨r, -, rfl⟩ := decodeCommand_eq_some.1 hu
      rw [performed_wrCmd hu] at h
      cases r <;> cases h
  | _ => cases h

/-! ### Completion (40_commands.md R113) -/

theorem lockedWrite_completes (w : State → State) (s : State) : ∃ t, lockedWrite w s = .next t := by
  unfold lockedWrite; split <;> exact ⟨_, rfl⟩

theorem blockCommand_completes (r : Byte → Bool → Word) (blk : Byte) (xp : Bool) (s : State) :
    ∃ t, blockCommand r blk xp s = .next t := by
  unfold blockCommand; split <;> exact ⟨_, rfl⟩

theorem execStart_completes (s : State) : ∃ t, execStart s = .next t := by
  unfold execStart; split <;> exact ⟨_, rfl⟩

theorem execCancel_completes (s : State) : ∃ t, execCancel s = .next t := by
  unfold execCancel; split <;> exact ⟨_, rfl⟩

theorem exec_completes (i : Instr) (s : State) : ∃ t, exec i s = .next t := by
  rw [exec_performed]
  cases hi : i.performed with
  | nop => exact ⟨_, rfl⟩
  | start => exact execStart_completes s
  | cancel => exact execCancel_completes s
  | henc nib xp => exact ⟨_, rfl⟩
  | hdec blk xp => exact blockCommand_completes ..
  | hchk blk xp => exact blockCommand_completes ..
  | rd a => exact ⟨_, rfl⟩
  | wrCmd w => exact ⟨_, exec_wrCmd_invalid (decodeCommand_of_performed_wrCmd hi) s⟩
  | wrConfig v => exact exec_wrConfig v s ▸ lockedWrite_completes ..
  | wrBps v => exact exec_wrBps v s ▸ lockedWrite_completes ..
  | wrLen v => exact exec_wrLen v s ▸ lockedWrite_completes ..
  | wrPayload k v =>
    by_cases hk : k.toNat < s.params.nBuf
    · exact exec_wrPayload v hk ▸ lockedWrite_completes ..
    · exact ⟨_, exec_wrPayload_unmapped v hk⟩
  | wrIgnored a v => exact ⟨_, rfl⟩

/-! ### What an access writes, by the command it performs -/

/-- The codec commands, the writers of CODEC_RES (10_state.md R36). -/
def IsCodec (i : Instr) : Prop :=
  (∃ nib xp, i = .henc nib xp) ∨ (∃ blk xp, i = .hdec blk xp) ∨ ∃ blk xp, i = .hchk blk xp

/-- What an access writes, tied to the command it performs: START, CANCEL, a codec command's result, or no more than
ERR, the result of a read and the host's own registers. -/
inductive Effect (i : Instr) (s : State) : State → Prop
  | start {t : State} : i.performed = .start → execStart s = .next t → Effect i s t
  | cancel {t : State} : i.performed = .cancel → execCancel s = .next t → Effect i s t
  | codec (v : Word) (e : ErrCode) : IsCodec i.performed → Effect i s ((s.setCodecRes v).setErr e)
  | host (e : ErrCode) (c : BitVec 5) (b l : Word) (p : Memory) (r : Option Word) :
      Effect i s { s with err := e, config := c, bps := b, len := l, payload := p, hrdata := r }

theorem lockedWrite_effect {i : Instr} {w : State → State} {s t : State} (h : lockedWrite w s = .next t)
    (hw : Effect i s ((w s).setErr .ok)) : Effect i s t := by
  rcases lockedWrite_cases h with ⟨-, rfl⟩ | ⟨-, rfl⟩
  · exact .host ..
  · exact hw

theorem blockCommand_effect {i : Instr} {r : Byte → Bool → Word} {blk : Byte} {xp : Bool} {s t : State}
    (h : blockCommand r blk xp s = .next t) (hi : IsCodec i.performed) : Effect i s t := by
  rcases blockCommand_cases h with ⟨-, rfl⟩ | ⟨-, rfl⟩
  · exact .host ..
  · exact .codec _ _ hi

theorem exec_effect {i : Instr} {s t : State} (h : exec i s = .next t) : Effect i s t := by
  rw [exec_performed] at h
  cases hi : i.performed with rw [hi] at h
  | nop => cases h; exact .host ..
  | start => exact .start hi h
  | cancel => exact .cancel hi h
  | henc nib xp => cases h; exact .codec _ _ (.inl ⟨nib, xp, hi⟩)
  | hdec blk xp => exact blockCommand_effect h (.inr (.inl ⟨blk, xp, hi⟩))
  | hchk blk xp => exact blockCommand_effect h (.inr (.inr ⟨blk, xp, hi⟩))
  | rd a => cases h; exact .host ..
  | wrCmd w => rw [exec_wrCmd_invalid (decodeCommand_of_performed_wrCmd hi)] at h; cases h; exact .host ..
  | wrConfig v => rw [exec_wrConfig] at h; exact lockedWrite_effect h (.host ..)
  | wrBps v => rw [exec_wrBps] at h; exact lockedWrite_effect h (.host ..)
  | wrLen v => rw [exec_wrLen] at h; exact lockedWrite_effect h (.host ..)
  | wrPayload k v =>
    by_cases hk : k.toNat < s.params.nBuf
    · rw [exec_wrPayload v hk] at h; exact lockedWrite_effect h (.host ..)
    · rw [exec_wrPayload_unmapped v hk] at h; cases h; exact .host ..
  | wrIgnored a v => cases h; exact .host ..

theorem execCancel_cases {s t : State} (h : execCancel s = .next t) :
    (s.sched = .running ∧ t = s.cancelTransmission.setErr .ok) ∨ (s.sched ≠ .running ∧ t = s.setErr .ok) := by
  unfold execCancel at h
  split at h
  · exact .inl ⟨‹_›, (Host.Outcome.next.inj h).symm⟩
  · exact .inr ⟨‹_›, (Host.Outcome.next.inj h).symm⟩

/-! ### The writers of the flags and of INDEX -/

section
variable {i : Instr} {s t : State} (h : exec i s = .next t)
include h

theorem exec_sched_cancelled_of_not_start_cancel (hs : i.performed ≠ .start) (hc : i.performed ≠ .cancel) :
    t.sched = s.sched ∧ t.cancelled = s.cancelled := by
  cases exec_effect h with
  | start hi => exact absurd hi hs
  | cancel hi => exact absurd hi hc
  | codec => exact ⟨rfl, rfl⟩
  | host => exact ⟨rfl, rfl⟩

theorem exec_sinkErr_of_not_start (hs : i.performed ≠ .start) : t.sinkErr = s.sinkErr := by
  cases exec_effect h with
  | start hi => exact absurd hi hs
  | cancel _ hx => rcases execCancel_cases hx with ⟨-, rfl⟩ | ⟨-, rfl⟩ <;> rfl
  | codec => rfl
  | host => rfl

theorem exec_codecRes_of_not_codec (hc : ¬ IsCodec i.performed) : t.codecRes = s.codecRes := by
  cases exec_effect h with
  | start _ hx => rcases execStart_cases hx with ⟨-, rfl⟩ | ⟨-, _, -, -, rfl⟩ <;> rfl
  | cancel _ hx => rcases execCancel_cases hx with ⟨-, rfl⟩ | ⟨-, rfl⟩ <;> rfl
  | codec _ _ hi => exact absurd hi hc
  | host => rfl

theorem exec_index_of_start (hi : i.performed = .start) (hs : s.Startable) : t.index = 0 := by
  rw [exec_performed, hi, exec_start, execStart_startable hs] at h
  cases h; rfl

theorem exec_index_of_not_start (hi : ¬ (i.performed = .start ∧ s.Startable)) : t.index = s.index := by
  cases exec_effect h with
  | start hp hx =>
    rcases execStart_cases hx with ⟨hs, rfl⟩ | ⟨-, _, -, -, rfl⟩
    · exact absurd ⟨hp, hs⟩ hi
    · rfl
  | cancel _ hx => rcases execCancel_cases hx with ⟨-, rfl⟩ | ⟨-, rfl⟩ <;> rfl
  | codec => rfl
  | host => rfl

theorem exec_now : t.now = s.now := by cases exec_access h <;> rfl

end

/-! ### The same of an engine step -/

section
variable {k : SinkIn} {s t : State} (h : engineStep k s = .next t)
include h

theorem engineStep_now : t.now = s.now := by
  rcases engineStep_cases h with ⟨-, rfl⟩ | ⟨-, rfl⟩ | ⟨-, rfl⟩ | ⟨_, -, -, -, rfl⟩ | ⟨_, -, -, -, rfl⟩ <;> rfl

theorem engineStep_cancelled_codecRes : t.cancelled = s.cancelled ∧ t.codecRes = s.codecRes := by
  rcases engineStep_cases h with ⟨-, rfl⟩ | ⟨-, rfl⟩ | ⟨-, rfl⟩ | ⟨_, -, -, -, rfl⟩ | ⟨_, -, -, -, rfl⟩ <;>
    exact ⟨rfl, rfl⟩

theorem engineStep_fires_of_sinkErr_changed (hne : t.sinkErr ≠ s.sinkErr) : t.evFire = true := by
  rcases engineStep_cases h with ⟨-, rfl⟩ | ⟨-, rfl⟩ | ⟨-, rfl⟩ | ⟨_, -, -, -, rfl⟩ | ⟨_, -, -, -, rfl⟩
  · exact absurd rfl hne
  · exact absurd rfl hne
  · exact absurd rfl hne
  · exact absurd rfl hne
  · rfl

theorem engineStep_completes_of_sched_changed (hne : t.sched ≠ s.sched) :
    s.sched = .running ∧ t.sched = .done ∧ s.index = s.total := by
  rcases engineStep_cases h with ⟨-, rfl⟩ | ⟨-, rfl⟩ | ⟨hc, rfl⟩ | ⟨_, -, -, -, rfl⟩ | ⟨_, -, -, -, rfl⟩
  · exact absurd rfl hne
  · exact absurd rfl hne
  · obtain ⟨hr, -, -, hi⟩ := hc
    exact ⟨hr, rfl, hi⟩
  · exact absurd rfl hne
  · exact absurd rfl hne

theorem engineStep_index : t.index = s.index + (if t.evFire then 1 else 0) := by
  rcases engineStep_cases h with ⟨-, rfl⟩ | ⟨-, rfl⟩ | ⟨-, rfl⟩ | ⟨_, -, -, -, rfl⟩ | ⟨_, -, -, -, rfl⟩ <;> simp

end

/-! ### The tick -/

/-- `t` is the state after this tick's host access, before the engine step (70_reset_and_hazards.md R253). -/
def State.Accessed (s t : State) : Prop :=
  (s.fetch = none ∧ t = s.takeInputs) ∨ ∃ i, s.fetch = some i ∧ exec i s.takeInputs = .next t

/-- The tick's access is an accepted START (44_scheduler.md R186, R187). -/
def State.Starts (s : State) : Prop := ∃ i, s.fetch = some i ∧ i.performed = .start ∧ s.Startable

theorem State.Accessed.now_eq {s t : State} (h : s.Accessed t) : t.now = s.now := by
  rcases h with ⟨-, rfl⟩ | ⟨i, -, he⟩
  · rfl
  · exact (exec_now he).trans rfl

theorem State.Accessed.index_of_starts {s t : State} (h : s.Accessed t) (hs : s.Starts) : t.index = 0 := by
  obtain ⟨i, hf, hi, hs⟩ := hs
  rcases h with ⟨hn, -⟩ | ⟨j, hj, he⟩
  · simp [hf] at hn
  · obtain rfl : i = j := Option.some.inj (hf.symm.trans hj)
    exact exec_index_of_start he hi (startable_takeInputs.2 hs)

theorem State.Accessed.index_of_not_starts {s t : State} (h : s.Accessed t) (hs : ¬ s.Starts) :
    t.index = s.index := by
  rcases h with ⟨-, rfl⟩ | ⟨i, hi, he⟩
  · rfl
  · exact (exec_index_of_not_start he fun hp => hs ⟨i, hi, hp.1, startable_takeInputs.1 hp.2⟩).trans rfl

/-- A step that answers a next state, without reset: the access, the engine step, NOW + 1. -/
theorem step_next_ordinary {s u : State} (h : step s = .next u) (hr : s.hostIn.rst = false) :
    s.Ordinary ∧ ∃ t v, s.Accessed t ∧ engineStep s.sinkIn t = .next v ∧ u = v.advanceNow := by
  rcases step_cases h with ⟨hr', -⟩ | h
  · simp [hr] at hr'
  · exact h

/-- The host access of an ordinary tick always completes: what stops the tick is its engine step. -/
theorem step_ordinary {s : State} (h : s.Ordinary) : ∃ t, s.Accessed t ∧ step s = endTick s.sinkIn t := by
  cases hf : s.fetch with
  | none => exact ⟨_, .inl ⟨hf, rfl⟩, step_noAccess h hf⟩
  | some i =>
    obtain ⟨t, ht⟩ := exec_completes i s.takeInputs
    exact ⟨t, .inr ⟨i, hf, ht⟩, step_access h hf ht⟩

theorem step_timeExhausted {s : State} (hr : s.hostIn.rst = false) (hn : 2 ^ 64 - 1 ≤ s.now) :
    step s = .refused .timeExhausted := by
  have ht : timeModulus ≤ s.now + 1 := by rw [timeModulus]; omega
  simp [step, tick, hr, ht]

theorem endTick_not_refused (k : SinkIn) (s : State) (r : Refusal) : endTick k s ≠ .refused r := by
  unfold endTick
  split
  · simp
  · simp
  · rename_i q hq; exact absurd hq (engineStep_not_refused k s q)

theorem step_refused_iff {s : State} {r : Refusal} :
    step s = .refused r ↔ r = .timeExhausted ∧ s.hostIn.rst = false ∧ 2 ^ 64 - 1 ≤ s.now := by
  constructor
  · intro h
    by_cases hr : s.hostIn.rst = true
    · rw [step_reset hr] at h; simp at h
    · have hr' : s.hostIn.rst = false := by simpa using hr
      by_cases hn : 2 ^ 64 - 1 ≤ s.now
      · rw [step_timeExhausted hr' hn] at h
        exact ⟨(Host.Outcome.refused.inj h).symm, hr', hn⟩
      · obtain ⟨t, -, ht⟩ := step_ordinary ⟨hr', by omega⟩
        exact absurd (ht.symm.trans h) (endTick_not_refused _ t r)
  · rintro ⟨rfl, hr, hn⟩
    exact step_timeExhausted hr hn

/-! ### PAYLOAD is read back -/

theorem payload_wordAddr_toNat {k : BitVec 10} {n : Nat} (hn : n ≤ 768) (hk : k.toNat < n) :
    (addrPayload + k).toNat = addrPayload.toNat + k.toNat := by
  have hp : addrPayload.toNat = 256 := rfl
  rw [BitVec.toNat_add, hp]
  omega

/-- A read of a PAYLOAD address: the registers lie below all of them (20_memory.md R52). -/
theorem regRead_payload {s : State} {a : WordAddr} (h : isPayloadAddr s.params.nBuf a = true) :
    regRead s a = 0#24 ++ s.readPayload (a.toNat - addrPayload.toNat) := by
  have ha : 256 ≤ a.toNat := (of_decide_eq_true h).1
  have hne : ∀ r : WordAddr, r.toNat < 256 → a ≠ r := by rintro r hr rfl; omega
  simp [regRead, h, hne addrStatus (by decide), hne addrConfig (by decide), hne addrBps (by decide),
    hne addrLen (by decide), hne addrIndex (by decide), hne addrTotal (by decide), hne addrPeriod (by decide),
    hne addrCodecRes (by decide), hne addrLevel (by decide)]

theorem readPayload_of_written {s : State} {k : Nat} {v : Byte} (h : s.written? k = some v) :
    s.readPayload k = v := by
  simp [State.readPayload, h]

theorem regRead_payload_of_written {s : State} {k : BitVec 10} {v : Byte} (hb : s.params.nBuf ≤ 768)
    (hk : k.toNat < s.params.nBuf) (h : s.written? k.toNat = some v) :
    regRead s (addrPayload + k) = v.setWidth 32 := by
  have ha := payload_wordAddr_toNat hb hk
  have hp : isPayloadAddr s.params.nBuf (addrPayload + k) = true := by
    simp [isPayloadAddr, ha, hk]
  rw [regRead_payload hp, ha, Nat.add_sub_cancel_left, readPayload_of_written h]
  exact (BitVec.setWidth_eq_append (by decide)).symm

end Sys2Proof.Machine

/-! SUPPORT. The invariant: what the access and the engine step of a tick keep of it. -/

namespace Sys2Proof.Machine

/-! ### The word of a codec command keeps CODEC_RES's form (10_state.md R36) -/

/-- CODEC_RES above its fields SYN and DATA. -/
theorem codecWord_high (xp chk : Bool) (dst : BitVec 2) (qerr : Bool) (syn : BitVec 4) (data : Byte) {i n : Nat}
    (hi : 13 ≤ i) :
    (codecWord xp chk dst qerr syn data).extractLsb' i n =
      (0#15 ++ BitVec.ofBool xp ++ BitVec.ofBool chk ++ dst).extractLsb' (i - 8 - 4 - 1) n :=
  (BitVec.extractLsb'_append_eq_of_le (by omega)).trans
    ((BitVec.extractLsb'_append_eq_of_le (by omega)).trans (BitVec.extractLsb'_append_eq_of_le (by omega)))

theorem codecWord_reserved (xp chk : Bool) (dst : BitVec 2) (qerr : Bool) (syn : BitVec 4) (data : Byte) :
    (codecWord xp chk dst qerr syn data).extractLsb' 17 15 = 0 := by
  rw [codecWord_high _ _ _ _ _ _ (by decide), BitVec.extractLsb'_append_eq_of_le (by decide),
    BitVec.extractLsb'_append_eq_of_le (by decide), BitVec.extractLsb'_append_eq_left]
  rfl

theorem codecWord_status (xp chk : Bool) (dst : BitVec 2) (qerr : Bool) (syn : BitVec 4) (data : Byte) :
    (codecWord xp chk dst qerr syn data).extractLsb' 13 2 = dst := by
  rw [codecWord_high _ _ _ _ _ _ (by decide)]
  exact BitVec.extractLsb'_append_eq_right

theorem DecodeStatus.code_ne_three (d : DecodeStatus) : d.code ≠ 3 := by cases d <;> decide

/-! ### The invariant between the access and the engine step -/

/-- The invariant without its clauses on the ports: what holds in the middle of a tick, where the ports are still those
of the tick before and a START has already set INDEX back. -/
structure State.CoreOk (s : State) : Prop where
  regs : s.RegsOk
  payload : s.PayloadOk
  session : s.SessionOk
  running : s.sched = .running → s.RunningOk

theorem State.Inv.coreOk {s : State} (h : s.Inv) : s.CoreOk := ⟨h.regs, h.payload, h.session, h.running⟩

/-- What the invariant does not speak of: ERR, the host's registers, a read's result, the coming inputs, the draws, and
the ports, which come after the engine step. -/
theorem State.CoreOk.frame {s : State} (h : s.CoreOk) (e : ErrCode) (c : BitVec 5) (b l : Word) (r : Option Word)
    (ho : List HostIn) (si : List SinkIn) (ev : Bool) (el : Byte) (ec ef : Bool) (eo : Option Event) :
    State.CoreOk { s with
      err := e, config := c, bps := b, len := l, hrdata := r, host := ho, sink := si
      evValid := ev, evLevel := el, evClk := ec, evFire := ef, event := eo } where
  regs := { h.regs with }
  payload := { h.payload with }
  session := { h.session with }
  running hr := { h.running hr with }

theorem State.CoreOk.setErr {s : State} (h : s.CoreOk) (e : ErrCode) : (s.setErr e).CoreOk := h.frame ..

theorem State.CoreOk.takeInputs {s : State} (h : s.CoreOk) : s.takeInputs.CoreOk := h.frame ..

theorem State.CoreOk.quietPorts {s : State} (h : s.CoreOk) : s.quietPorts.CoreOk := h.frame ..

/-! ### The accesses -/

theorem State.CoreOk.setCodecRes {s : State} (h : s.CoreOk) {v : Word} (hr : v.extractLsb' 17 15 = 0)
    (hd : v.extractLsb' 13 2 ≠ 3) : (s.setCodecRes v).CoreOk where
  regs := { h.regs with codecReserved := hr, codecStatus := hd }
  payload := { h.payload with }
  session := { h.session with }
  running hr := { h.running hr with }

/-- The word of every codec command has CODEC_RES's form where its DST is not 3. -/
theorem State.CoreOk.setCodecWord {s : State} (h : s.CoreOk) (xp chk : Bool) {dst : BitVec 2} (qerr : Bool)
    (syn : BitVec 4) (data : Byte) (hd : dst ≠ 3) : (s.setCodecRes (codecWord xp chk dst qerr syn data)).CoreOk :=
  h.setCodecRes (codecWord_reserved ..) (by rwa [codecWord_status])

theorem State.CoreOk.setPayload {s : State} (h : s.CoreOk) {k : Nat} (v : Byte) (hk : k < s.params.nBuf) :
    (s.setPayload k v).CoreOk where
  regs := { h.regs with }
  payload :=
    { canonical := Memory.put_wf _ _ h.payload.canonical
      inBuffer := fun c hc => by
        rcases Memory.mem_put hc with rfl | hc
        · exact ⟨k, hk, rfl⟩
        · exact h.payload.inBuffer c hc }
  session := { h.session with }
  running hr := { h.running hr with }

/-- An accepted START begins a transmission that has emitted nothing (44_scheduler.md R187). -/
theorem State.CoreOk.beginTransmission {s : State} (h : s.CoreOk) (hs : s.Startable) (m : Mode) :
    (s.beginTransmission (s.planLevels m) (BitVec.ofNat 32 s.nominalPeriod)).CoreOk := by
  have htotal := planLevels_total h.regs.params hs m
  have hlength := (planLevels_length_bounds h.regs.params hs m).1
  have hperiod := (nominalPeriod_toNat h.regs.params).symm ▸ nominalPeriod_pos hs
  refine ⟨{ h.regs with }, { h.payload with }, ?_, fun _ => ?_⟩
  · exact
      { totalIsLength := htotal.symm, indexLe := Nat.zero_le _, levelsLegal := modulate_legal m _
        idleIsReset := nofun, doneIsComplete := nofun, cancelledIsDone := nofun }
  · exact
      { periodPos := hperiod, totalPos := by simpa [htotal] using hlength
        offerHasLevel := fun _ => by simp [htotal]; omega
        waitHasLast := nofun, firstIsZero := by simp
        lastBeforeNow := nofun, lastBeforeDue := nofun, dueBound := nofun }

theorem State.CoreOk.cancelTransmission {s : State} (h : s.CoreOk) : s.cancelTransmission.CoreOk where
  regs := { h.regs with }
  payload := { h.payload with }
  session :=
    { totalIsLength := h.session.totalIsLength, indexLe := h.session.indexLe, levelsLegal := h.session.levelsLegal
      idleIsReset := nofun, doneIsComplete := nofun, cancelledIsDone := fun _ => rfl }
  running := nofun

theorem Access.coreOk {i : Instr} {s t : State} (ha : Access i s t) (h : s.CoreOk) : t.CoreOk := by
  cases ha with
  | same => exact h
  | read a => exact h.frame ..
  | error e => exact h.setErr e
  | config v => exact h.frame ..
  | bps v => exact h.frame ..
  | len v => exact h.frame ..
  | payload k v hk => exact (h.setPayload v hk).setErr _
  | henc nib xp => exact (h.setCodecWord _ _ _ _ _ (by decide)).setErr _
  | hdec blk xp => exact (h.setCodecWord _ _ _ _ _ (DecodeStatus.code_ne_three _)).setErr _
  | hchk blk xp => exact (h.setCodecWord _ _ _ _ _ (by decide)).setErr _
  | start hs => exact (h.beginTransmission hs _).setErr _
  | cancel hr => exact h.cancelTransmission.setErr _

theorem State.Accessed.coreOk {s t : State} (h : s.Accessed t) (hs : s.CoreOk) : t.CoreOk := by
  rcases h with ⟨-, rfl⟩ | ⟨i, -, he⟩
  · exact hs.takeInputs
  · exact (exec_access he).coreOk hs.takeInputs

/-! ### The engine step and the advance of NOW -/

theorem State.CoreOk.advanceNow {s : State} (h : s.CoreOk) (hn : s.now + 1 < 2 ^ 64) : s.advanceNow.CoreOk where
  regs := { h.regs with nowFits := hn }
  payload := { h.payload with }
  session := { h.session with }
  running hr := { h.running hr with
    lastBeforeNow := fun hl => Nat.lt_succ_of_lt ((h.running hr).lastBeforeNow hl) }

theorem State.CoreOk.finishTransmission {s : State} (h : s.CoreOk) (hi : s.index = s.total) :
    s.finishTransmission.CoreOk where
  regs := { h.regs with }
  payload := { h.payload with }
  session :=
    { totalIsLength := h.session.totalIsLength, indexLe := h.session.indexLe, levelsLegal := h.session.levelsLegal
      idleIsReset := nofun, doneIsComplete := fun _ _ => hi, cancelledIsDone := fun _ => rfl }
  running := nofun

/-- Where the engine offers a level, there is one (log 11). -/
theorem State.CoreOk.index_lt_of_offering {s : State} (h : s.CoreOk) (ho : s.Offering) :
    s.index.toNat < s.total.toNat := by
  obtain ⟨hr, hp | ⟨-, -, hi⟩⟩ := ho
  · exact (h.running hr).offerHasLevel hp
  · exact Nat.lt_of_le_of_ne h.session.indexLe fun he => hi (BitVec.eq_of_toNat_eq he)

theorem State.CoreOk.exists_level {s : State} (h : s.CoreOk) (ho : s.Offering) :
    ∃ l, s.levels[s.index.toNat]? = some l :=
  ⟨_, List.getElem?_eq_getElem (h.session.totalIsLength ▸ h.index_lt_of_offering ho)⟩

theorem State.CoreOk.offerLevel {s : State} (h : s.CoreOk) (ho : s.Offering) (l : Level) :
    (s.offerLevel l).CoreOk where
  regs := { h.regs with }
  payload := { h.payload with }
  session := { h.session with }
  running hr := { h.running hr with
    offerHasLevel := fun _ => h.index_lt_of_offering ho
    waitHasLast := nofun }

/-- The delay an emission requests stays below 2P: a later one is at most 2P - 1, for at least one tick has passed since
LAST (44_scheduler.md R195). -/
theorem State.CoreOk.compensatedDelay_lt {s : State} (h : s.CoreOk) (hr : s.sched = .running) :
    s.compensatedDelay < 2 * s.period.toNat := by
  have hrun := h.running hr
  have hp := hrun.periodPos
  cases hl : s.haveLast with
  | false => rw [State.compensatedDelay_first hl]; omega
  | true =>
    have hlt := hrun.lastBeforeNow hl
    rw [State.compensatedDelay_later hl, State.measuredGap_of_le (Nat.le_of_lt hlt) h.regs.nowFits]
    omega

/-- An emission and the advance of NOW together: between the two LAST is NOW itself. -/
theorem State.CoreOk.emitLevel_advanceNow {s : State} (h : s.CoreOk) (ho : s.Offering) {l : Level}
    (hl : l ∈ s.levels) (b : Bool) (hn : s.now + 1 < 2 ^ 64) :
    (s.emitLevel l b s.compensatedDelay).advanceNow.CoreOk := by
  have hr := ho.1
  have hrun := h.running hr
  have hlt := h.index_lt_of_offering ho
  have hindex : (s.index + 1).toNat = s.index.toNat + 1 := by
    rw [BitVec.toNat_add]; have := s.total.isLt; simp; omega
  refine ⟨?_, { h.payload with }, ?_, fun _ => ?_⟩
  · exact { h.regs with nowFits := hn, level := h.session.levelsLegal l hl }
  · exact
      { totalIsLength := h.session.totalIsLength, indexLe := hindex.trans_le hlt
        levelsLegal := h.session.levelsLegal
        idleIsReset := fun hi => by simp [hr] at hi
        doneIsComplete := fun hd => by simp [hr] at hd
        cancelledIsDone := h.session.cancelledIsDone }
  · have hd := h.compensatedDelay_lt hr
    have hp := hrun.periodPos
    exact
      { periodPos := hp, totalPos := hrun.totalPos
        offerHasLevel := nofun, waitHasLast := fun _ => rfl
        firstIsZero := ⟨nofun, fun hz => absurd (congrArg BitVec.toNat hz) (hindex.trans_ne (Nat.succ_ne_zero _))⟩
        lastBeforeNow := fun _ => Nat.lt_succ_self _
        lastBeforeDue := fun _ => by simp
        dueBound := fun _ => by simp; omega }

/-! ### The ports -/

theorem State.portsOk_of_noEvent {s : State} (hf : s.evFire = false) (he : s.event = none)
    (hq : s.evValid = false → s.evLevel = 0 ∧ s.evClk = false) : s.PortsOk where
  fireIsValid h := by simp [hf] at h
  quietIsZero := hq
  fireIsEvent := by simp [hf, he]
  eventIsEmission e h := by simp [he] at h

theorem State.portsOk_emitLevel_advanceNow (s : State) (l : Level) (b : Bool) (d : Nat) :
    (s.emitLevel l b d).advanceNow.PortsOk where
  fireIsValid _ := rfl
  quietIsZero := nofun
  fireIsEvent := rfl
  eventIsEmission e h := by
    obtain rfl := Option.some.inj h
    exact ⟨rfl, rfl, rfl, rfl⟩

/-! ### The whole step -/

theorem State.CoreOk.engineStep_inv {k : SinkIn} {s t : State} (h : s.CoreOk) (hn : s.now + 1 < 2 ^ 64)
    (he : engineStep k s = .next t) : t.advanceNow.Inv := by
  suffices t.advanceNow.CoreOk ∧ t.advanceNow.PortsOk from
    ⟨this.1.regs, this.1.payload, this.1.session, this.1.running, this.2⟩
  have hquiet : s.quietPorts.advanceNow.PortsOk := State.portsOk_of_noEvent rfl rfl fun _ => ⟨rfl, rfl⟩
  rcases engineStep_cases he with
    ⟨-, rfl⟩ | ⟨-, rfl⟩ | ⟨⟨-, -, -, hi⟩, rfl⟩ | ⟨l, ho, -, -, rfl⟩ | ⟨l, ho, hl, -, rfl⟩
  · exact ⟨h.quietPorts.advanceNow hn, hquiet⟩
  · exact ⟨h.quietPorts.advanceNow hn, hquiet⟩
  · exact ⟨(h.quietPorts.finishTransmission hi).advanceNow hn, State.portsOk_of_noEvent rfl rfl fun _ => ⟨rfl, rfl⟩⟩
  · exact ⟨(h.offerLevel ho l).advanceNow hn, State.portsOk_of_noEvent rfl rfl nofun⟩
  · exact ⟨h.emitLevel_advanceNow ho (List.mem_of_getElem? hl) _ hn, State.portsOk_emitLevel_advanceNow ..⟩

theorem State.CoreOk.engineStep_completes {s : State} (h : s.CoreOk) (k : SinkIn) :
    ∃ t, engineStep k s = .next t := by
  rcases engine_cases s with hs | hs | hs | hs
  · exact ⟨_, engineStep_notRunning hs⟩
  · exact ⟨_, engineStep_waiting hs⟩
  · exact ⟨_, engineStep_completing hs⟩
  · obtain ⟨l, hl⟩ := h.exists_level hs
    rw [engineStep_offering hs, hl]
    cases k.evReady <;> exact ⟨_, rfl⟩

/-! ### Reset -/

theorem State.resetWith_atReset (p : Params) : (State.resetWith p).AtReset := by constructor <;> rfl

theorem State.hardReset_atReset (s : State) : s.hardReset.AtReset := by constructor <;> rfl

/-- The values of reset have the invariant, whatever PAYLOAD holds; that the ports but `ev_valid` and `ev_fire` and the
event record are empty is the model's own (log 8, 9). -/
theorem State.AtReset.inv {s : State} (h : s.AtReset) (hparams : s.params.Legal) (hpayload : s.PayloadOk)
    (hlevel : s.evLevel = 0) (hclk : s.evClk = false) (hevent : s.event = none) : s.Inv where
  regs :=
    { params := hparams, codecReserved := by rw [h.codecRes]; decide, codecStatus := by rw [h.codecRes]; decide
      nowFits := by rw [h.now]; decide, level := by rw [h.lvlOut]; decide }
  payload := hpayload
  session :=
    { totalIsLength := by simp [h.levels, h.total], indexLe := by simp [h.index]
      levelsLegal := by simp [h.levels]
      idleIsReset := fun _ => ⟨h.total, h.period, h.sinkErr⟩
      doneIsComplete := fun hd => by simp [h.sched] at hd
      cancelledIsDone := fun hc => by simp [h.cancelled] at hc }
  running hr := by simp [h.sched] at hr
  ports := State.portsOk_of_noEvent h.evFire hevent fun _ => ⟨hlevel, hclk⟩

theorem State.resetWith_inv {p : Params} (hp : p.Legal) : (State.resetWith p).Inv :=
  (State.resetWith_atReset p).inv hp ⟨rfl, nofun⟩ rfl rfl rfl

theorem State.hardReset_inv {s : State} (hp : s.params.Legal) (hm : s.PayloadOk) : s.hardReset.Inv :=
  s.hardReset_atReset.inv hp { hm with } rfl rfl rfl

theorem step_inv {s t : State} (h : s.Inv) (hstep : step s = .next t) : t.Inv := by
  rcases step_cases hstep with ⟨-, rfl⟩ | ⟨hord, a, v, ha, he, rfl⟩
  · exact State.hardReset_inv h.regs.params { h.payload with }
  · have ha : s.Accessed a := ha
    exact (ha.coreOk h.coreOk).engineStep_inv (ha.now_eq ▸ hord.2) he

theorem step_completes {s : State} (h : s.Inv) (hs : s.Ordinary ∨ s.hostIn.rst = true) : ∃ t, step s = .next t := by
  rcases hs with hord | hr
  · obtain ⟨a, ha, hstep⟩ := step_ordinary hord
    obtain ⟨v, hv⟩ := (ha.coreOk h.coreOk).engineStep_completes s.sinkIn
    exact ⟨v.advanceNow, by rw [hstep, endTick, hv]⟩
  · exact ⟨_, step_reset hr⟩

end Sys2Proof.Machine

/-! SUPPORT. The obligations on the state, its reset and its invariant. -/

namespace Sys2Proof.Machine

/-- Settles O55: the access keeps all of the invariant but the ports' clauses, and the engine step with the advance of
NOW gives the whole back. -/
theorem everyStepKeepsTheInvariant : Obligations.EveryStepKeepsTheInvariant :=
  fun _ _ h hstep => step_inv h hstep

/-- Settles O56: every access completes, and under the invariant the level the engine offers exists. -/
theorem noFaultUnderTheInvariant : Obligations.NoFaultUnderTheInvariant :=
  fun _ h hs => step_completes h hs

/-- Settles O4: only the advance at the end of the tick writes NOW, and no access or engine step is refused. -/
theorem nowAdvancesByOneUntilRefused : Obligations.NowAdvancesByOneUntilRefused := by
  refine ⟨fun s t h hr => ?_, fun s r => step_refused_iff⟩
  obtain ⟨-, a, v, ha, he, rfl⟩ := step_next_ordinary h hr
  rw [State.advanceNow_now, engineStep_now he, ha.now_eq]

/-- Settles O23: the address 0x100 + k does not wrap and lies above every register. -/
theorem payloadReadsBackTheByteWritten : Obligations.PayloadReadsBackTheByteWritten := by
  rintro s k v ⟨-, hb, -, -⟩ hr hk
  refine ⟨(s.setPayload k.toNat (v.extractLsb' 0 8)).setErr .ok, ?_, ?_⟩
  · rw [exec_wrPayload v hk, lockedWrite_free hr]
  · have hw : ((s.setPayload k.toNat (v.extractLsb' 0 8)).setErr .ok).written? k.toNat = some (v.extractLsb' 0 8) :=
      State.written?_setPayload_same ..
    exact (exec_rd ..).trans (congrArg (fun w => Host.Outcome.next (State.setHrdata _ w))
      (regRead_payload_of_written hb hk hw))

/-- Settles O32, by the command the access performs and by the cases of the engine step. -/
theorem flagsHaveOnlyTheListedWriters : Obligations.FlagsHaveOnlyTheListedWriters := by
  refine ⟨fun i s t h => ⟨exec_sched_cancelled_of_not_start_cancel h, exec_sinkErr_of_not_start h, ?_⟩,
    fun k s t h => ?_⟩
  · rintro hhenc hhdec hhchk
    refine exec_codecRes_of_not_codec h ?_
    rintro (⟨nib, xp, hi⟩ | ⟨blk, xp, hi⟩ | ⟨blk, xp, hi⟩)
    · exact hhenc nib xp hi
    · exact hhdec blk xp hi
    · exact hhchk blk xp hi
  · obtain ⟨hcancelled, hcodec⟩ := engineStep_cancelled_codecRes h
    exact ⟨hcancelled, hcodec, engineStep_fires_of_sinkErr_changed h, engineStep_completes_of_sched_changed h⟩

/-- Settles O53: the access sets INDEX to 0 exactly where it is an accepted START, and the engine step adds one at an
emission. -/
theorem indexCountsTheEmissions : Obligations.IndexCountsTheEmissions := by
  intro s t hord h
  obtain ⟨-, a, v, ha, he, rfl⟩ := step_next_ordinary h hord.1
  have hi := engineStep_index he
  by_cases hs : s.Starts
  · rw [ha.index_of_starts hs, zero_add] at hi
    exact .inl ⟨hs, hi⟩
  · rw [ha.index_of_not_starts hs] at hi
    exact .inr ⟨hs, hi⟩

/-- Settles O1: each listed value, PAYLOAD without a written byte. -/
theorem resetLeavesTheListedValues : Obligations.ResetLeavesTheListedValues :=
  fun p => ⟨State.resetWith_atReset p, fun _ => rfl, rfl⟩

/-- Settles O54. -/
theorem invariantHoldsAtReset : Obligations.InvariantHoldsAtReset :=
  fun _ hp => State.resetWith_inv hp

end Sys2Proof.Machine

/-! SUPPORT. The host's registers and the payload buffer: what a read returns, what a write stores, and what the engine
step has to do with them. -/

namespace Sys2Proof.Machine

/-! ### Addresses (20_memory.md R52) -/

theorem wordAddr_eq_iff {a r : WordAddr} : a = r ↔ 4 * a.toNat = 4 * r.toNat :=
  BitVec.toNat_inj.symm.trans (by omega)

theorem isPayloadAddr_iff {n : Nat} {a : WordAddr} :
    isPayloadAddr n a = true ↔ 0x400 ≤ 4 * a.toNat ∧ a.toNat - 0x100 < n := by
  have hp : addrPayload.toNat = 0x100 := rfl
  rw [isPayloadAddr, decide_eq_true_iff, hp]
  exact and_congr_left' (by omega)

/-- A write to an address that is not writable is the ignored write (20_memory.md R58). -/
theorem decodeBus_wrIgnored {n : Nat} {a : WordAddr} (v : Word) (h : isWritable n a = false) :
    decodeBus n (busCode true a) v = .wrIgnored a v := by
  simp only [isWritable, Bool.or_eq_false_iff, beq_eq_false_iff_ne] at h
  obtain ⟨⟨⟨⟨hcmd, hconfig⟩, hbps⟩, hlen⟩, hpayload⟩ := h
  simp [decodeBus, hcmd, hconfig, hbps, hlen, hpayload]

/-- The read-only and the unmapped addresses, by byte address (20_memory.md R52). -/
theorem isWritable_eq_false {n : Nat} {a : WordAddr}
    (h : 4 * a.toNat ∈ [0x004, 0x014, 0x018, 0x01C, 0x020, 0x024] ∨ (0x028 ≤ 4 * a.toNat ∧ 4 * a.toNat < 0x400) ∨
      0x400 + 4 * n ≤ 4 * a.toNat) :
    isWritable n a = false := by
  have hne : ∀ r : WordAddr, 4 * r.toNat ∈ [0x000, 0x008, 0x00C, 0x010] → a ≠ r := by
    rintro r hr rfl
    simp only [List.mem_cons, List.not_mem_nil, or_false] at h hr
    omega
  have hpayload : isPayloadAddr n a = false := by
    rw [← Bool.not_eq_true, isPayloadAddr_iff]
    simp only [List.mem_cons, List.not_mem_nil, or_false] at h
    omega
  simp [isWritable, hpayload, hne addrCmd (by decide), hne addrConfig (by decide), hne addrBps (by decide),
    hne addrLen (by decide)]

/-! ### Reads (20_memory.md R55) -/

/-- RegRead by byte address; CMD reads 0, as the unmapped addresses do. -/
theorem regRead_byteAddr (s : State) (a : WordAddr) :
    regRead s a =
      if 4 * a.toNat = 0x000 then 0
      else if 4 * a.toNat = 0x004 then statusWord s
      else if 4 * a.toNat = 0x008 then s.config.setWidth 32
      else if 4 * a.toNat = 0x00C then s.bps
      else if 4 * a.toNat = 0x010 then s.len
      else if 4 * a.toNat = 0x014 then s.index
      else if 4 * a.toNat = 0x018 then s.total
      else if 4 * a.toNat = 0x01C then s.period
      else if 4 * a.toNat = 0x020 then s.codecRes
      else if 4 * a.toNat = 0x024 then levelWord s
      else if 0x400 ≤ 4 * a.toNat ∧ a.toNat - 0x100 < s.params.nBuf then
        (s.readPayload (a.toNat - 0x100)).setWidth 32
      else 0 := by
  have hconfig : configWord s = s.config.setWidth 32 := (BitVec.setWidth_eq_append (by decide)).symm
  have hbyte : ∀ b : Byte, 0#24 ++ b = b.setWidth 32 := fun b => (BitVec.setWidth_eq_append (by decide)).symm
  by_cases hcmd : 4 * a.toNat = 0
  · obtain rfl : a = addrCmd := wordAddr_eq_iff.2 hcmd
    rfl
  · rw [if_neg hcmd]
    simp only [regRead, wordAddr_eq_iff, isPayloadAddr_iff, hconfig, hbyte]
    rfl

/-! ### Writes and START (20_memory.md R60 to R62) -/

theorem readPayload_setPayload_other (s : State) {j k : Nat} (v : Byte) (h : j ≠ k) :
    (s.setPayload k v).readPayload j = s.readPayload j := by
  simp [State.readPayload, State.written?_setPayload_other s v h]

theorem execStart_of_not_startable {s : State} (h : ¬ s.Startable) :
    ∃ e, e ≠ .ok ∧ execStart s = .next (s.setErr e) := by
  obtain ⟨t, ht⟩ := execStart_completes s
  rcases execStart_cases ht with ⟨hs, -⟩ | ⟨-, e, he, -, rfl⟩
  · exact absurd hs h
  · exact ⟨e, he, ht⟩

/-- A BPS of 0 fails the second check of START where MODE does not already (44_scheduler.md R186). -/
theorem startCheck_of_bps_zero {s : State} (hr : s.sched ≠ .running) (hb : s.bps = 0) :
    startCheck s = .rejected .invalidConfig := by
  rw [startCheck, if_neg hr]
  cases Mode.ofField s.modeField with
  | none => rfl
  | some m => exact if_pos (.inl hb)

/-- While Running, START is rejected, so that only CANCEL ends a transmission (44_scheduler.md R188). -/
theorem exec_sched_of_running {i : Instr} {s t : State} (hr : s.sched = .running) (hc : i.performed ≠ .cancel)
    (h : exec i s = .next t) : t.sched = .running := by
  cases exec_effect h with
  | start _ hx =>
    rcases execStart_cases hx with ⟨hs, -⟩ | ⟨-, _, -, -, rfl⟩
    · exact absurd hr hs.notRunning
    · exact hr
  | cancel hi => exact absurd hi hc
  | codec => exact hr
  | host => exact hr

/-! ### The engine step (20_memory.md R73) -/

/-- `s` with other values of the registers the host writes. -/
def State.withHostRegs (s : State) (c : BitVec 5) (b l : Word) (p : Memory) : State :=
  { s with config := c, bps := b, len := l, payload := p }

theorem engineStep_offer {k : SinkIn} {s : State} {l : Level} (h : s.Offering) (hl : s.levels[s.index.toNat]? = some l)
    (hk : k.evReady = false) : engineStep k s = .next (s.offerLevel l) := by
  simp [engineStep_offering h, hl, hk]

theorem engineStep_emit {k : SinkIn} {s : State} {l : Level} (h : s.Offering) (hl : s.levels[s.index.toNat]? = some l)
    (hk : k.evReady = true) : engineStep k s = .next (s.emitLevel l k.sinkErr s.compensatedDelay) := by
  simp [engineStep_offering h, hl, hk]

section
variable {k : SinkIn} {s t : State} (h : engineStep k s = .next t)
include h

theorem engineStep_hostRegs :
    t.config = s.config ∧ t.bps = s.bps ∧ t.len = s.len ∧ t.payload = s.payload := by
  rcases engineStep_cases h with ⟨-, rfl⟩ | ⟨-, rfl⟩ | ⟨-, rfl⟩ | ⟨_, -, -, -, rfl⟩ | ⟨_, -, -, -, rfl⟩ <;>
    exact ⟨rfl, rfl, rfl, rfl⟩

theorem engineStep_hrdata : t.hrdata = s.hrdata := by
  rcases engineStep_cases h with ⟨-, rfl⟩ | ⟨-, rfl⟩ | ⟨-, rfl⟩ | ⟨_, -, -, -, rfl⟩ | ⟨_, -, -, -, rfl⟩ <;> rfl

/-- The case the engine is in, and what it does there, are the same with other values of the host's registers. -/
theorem engineStep_withHostRegs (c : BitVec 5) (b l : Word) (p : Memory) :
    engineStep k (s.withHostRegs c b l p) = .next (t.withHostRegs c b l p) := by
  rcases engineStep_cases h with ⟨hs, rfl⟩ | ⟨hs, rfl⟩ | ⟨hs, rfl⟩ | ⟨_, hs, hl, hk, rfl⟩ | ⟨_, hs, hl, hk, rfl⟩
  · exact engineStep_notRunning (s := s.withHostRegs c b l p) hs
  · exact engineStep_waiting (s := s.withHostRegs c b l p) hs
  · exact engineStep_completing (s := s.withHostRegs c b l p) hs
  · exact engineStep_offer (s := s.withHostRegs c b l p) hs hl hk
  · exact engineStep_emit (s := s.withHostRegs c b l p) hs hl hk

end

/-! ### The read of a tick (20_memory.md R55, 70_reset_and_hazards.md R253) -/

theorem regRead_takeInputs (s : State) (a : WordAddr) : regRead s.takeInputs a = regRead s a := rfl

theorem State.fetch_read {s : State} (hsel : s.hostIn.hsel = true) (hwrite : s.hostIn.hwrite = false) :
    s.fetch = some (.rd s.hostIn.haddr) := by
  simp [State.fetch, hsel, hwrite, decode, decodeBus]

theorem State.Accessed.exec_of_fetch {s t : State} {i : Instr} (h : s.Accessed t) (hi : s.fetch = some i) :
    exec i s.takeInputs = .next t := by
  rcases h with ⟨hn, -⟩ | ⟨j, hj, he⟩
  · simp [hi] at hn
  · obtain rfl : i = j := Option.some.inj (hi.symm.trans hj)
    exact he

/-- The result of a tick's read is that of the state before the tick: the read comes before the engine step
(70_reset_and_hazards.md R253). -/
theorem step_read {s t : State} (hord : s.Ordinary) (hsel : s.hostIn.hsel = true) (hwrite : s.hostIn.hwrite = false)
    (h : step s = .next t) : t.hrdata = some (regRead s s.hostIn.haddr) := by
  obtain ⟨-, a, v, ha, he, rfl⟩ := step_next_ordinary h hord.1
  have hread := ha.exec_of_fetch (State.fetch_read hsel hwrite)
  rw [exec_rd, regRead_takeInputs] at hread
  rw [State.advanceNow_hrdata, engineStep_hrdata he, ← Host.Outcome.next.inj hread, State.setHrdata_hrdata]

end Sys2Proof.Machine

/-! SUPPORT. The obligations on the host's registers and the payload buffer (20_memory.md). -/

namespace Sys2Proof.Machine

/-- Settles O20: RegRead by byte address, and a tick's read comes before its engine step. -/
theorem readReturnsTheAddressedRegister : Obligations.ReadReturnsTheAddressedRegister := by
  intro s a state err v
  have hv : regRead s a = v := regRead_byteAddr s a
  refine ⟨by rw [exec_rd, hv]; rfl, ?_⟩
  rintro t hord hsel hwrite rfl h
  rw [step_read hord hsel hwrite h, hv]

/-- Settles O21: each write is free of the lock, and START's checks refuse the values the writes store. -/
theorem registerWritesStoreTheirFields : Obligations.RegisterWritesStoreTheirFields := by
  intro s v hr
  refine ⟨⟨(s.setConfig (v.extractLsb' 0 5)).setErr .ok, ?_, rfl, ?_, ?_, ?_, ?_⟩,
    ⟨(s.setBps v).setErr .ok, ?_, rfl, fun hv => ?_⟩, ⟨(s.setLen v).setErr .ok, ?_, rfl, fun hv => ?_⟩⟩
  · rw [exec_wrConfig, lockedWrite_free hr]
  · exact BitVec.extractLsb'_extractLsb'_of_le (by decide)
  · simp [State.hamEn]
  · simp [State.xparEn]
  · rw [regRead_byteAddr]; rfl
  · rw [exec_wrBps, lockedWrite_free hr]
  · have hcheck := startCheck_of_bps_zero (s := (s.setBps v).setErr .ok) hr hv
    rw [exec_start, execStart, hcheck]; rfl
  · rw [exec_wrLen, lockedWrite_free hr]
  · exact execStart_of_not_startable fun hs => Nat.not_lt.2 hs.lenLe hv

/-- Settles O22: read after write of the buffer, at the same and at another address. -/
theorem payloadWriteStoresOneByte : Obligations.PayloadWriteStoresOneByte := by
  intro s k v hr hk
  refine ⟨(s.setPayload k.toNat (v.extractLsb' 0 8)).setErr .ok, ?_, rfl, ?_, ?_, ?_⟩
  · rw [exec_wrPayload v hk, lockedWrite_free hr]
  · exact Memory.get?_put_same ..
  · exact fun a ha => Memory.get?_put_other _ _ ha
  · exact fun j hj => readPayload_setPayload_other s _ hj

/-- Settles O24: the read-only and the unmapped addresses are not writable. -/
theorem ignoredWriteChangesNothing : Obligations.IgnoredWriteChangesNothing :=
  ⟨fun _ _ v h => decodeBus_wrIgnored v (isWritable_eq_false h), fun _ _ _ => rfl⟩

/-- Settles O25: the lock refuses the four writes. -/
theorem registersAreLockedWhileRunning : Obligations.RegistersAreLockedWhileRunning :=
  fun s _ v _ hr => ⟨(exec_wrConfig v s).trans (lockedWrite_running hr), (exec_wrBps v s).trans (lockedWrite_running hr),
    (exec_wrLen v s).trans (lockedWrite_running hr), fun hk => (exec_wrPayload v hk).trans (lockedWrite_running hr),
    rfl⟩

/-- Settles O28: a register write, refused or not, leaves PAYLOAD and the draws of the tick. -/
theorem frameOfBusAccesses : Obligations.FrameOfBusAccesses := by
  refine fun s t => ⟨fun a h => ?_, fun v h => ?_, fun v h => ?_, fun v h => ?_, fun k v h => ?_, fun a v h => ?_⟩
  · cases h; exact ⟨rfl, fun _ => rfl⟩
  · rw [exec_wrConfig] at h
    rcases lockedWrite_cases h with ⟨-, rfl⟩ | ⟨-, rfl⟩ <;> exact ⟨rfl, fun _ => rfl⟩
  · rw [exec_wrBps] at h
    rcases lockedWrite_cases h with ⟨-, rfl⟩ | ⟨-, rfl⟩ <;> exact ⟨rfl, fun _ => rfl⟩
  · rw [exec_wrLen] at h
    rcases lockedWrite_cases h with ⟨-, rfl⟩ | ⟨-, rfl⟩ <;> exact ⟨rfl, fun _ => rfl⟩
  · by_cases hk : k.toNat < s.params.nBuf
    · rw [exec_wrPayload v hk] at h
      rcases lockedWrite_cases h with ⟨-, rfl⟩ | ⟨-, rfl⟩
      · exact ⟨rfl, fun _ _ => rfl⟩
      · exact ⟨rfl, fun a ha => Memory.get?_put_other _ _ ha⟩
    · rw [exec_wrPayload_unmapped v hk] at h
      cases h; exact ⟨rfl, fun _ _ => rfl⟩
  · exact (Host.Outcome.next.inj h).symm

/-- Settles O34: while Running, the writes of the host's registers are locked and START is rejected; the effect of a
CANCEL would leave Running. -/
theorem transmissionInFlightIsImmutable : Obligations.TransmissionInFlightIsImmutable := by
  intro i s t hr hc h
  have hrun := exec_sched_of_running hr hc h
  cases exec_access h with
  | same => rfl
  | read a => rfl
  | error e => rfl
  | config v hn => exact absurd hr hn
  | bps v hn => exact absurd hr hn
  | len v hn => exact absurd hr hn
  | payload k v hk hn => exact absurd hr hn
  | henc nib xp => rfl
  | hdec blk xp => rfl
  | hchk blk xp => rfl
  | start hs => exact absurd hr hs.notRunning
  | cancel => cases hrun

/-- Settles O35, by the cases of the engine step. -/
theorem engineIgnoresTheHostRegisters : Obligations.EngineIgnoresTheHostRegisters := by
  intro k s t c b l p h
  obtain ⟨hconfig, hbps, hlen, hpayload⟩ := engineStep_hostRegs h
  exact ⟨hconfig, hbps, hlen, hpayload, (engineStep_cancelled_codecRes h).2, engineStep_withHostRegs h c b l p⟩

end Sys2Proof.Machine

/-! SUPPORT. The two code spaces: the fields a command word's mask fixes, the encoding of a row's instruction, and the bus
writes by their address. -/

namespace Sys2Proof

/-! ### Command words (30_encoding.md R81 to R86) -/

theorem selects_iff {r : CmdRow} {w : Word} : r.selects w = true ↔ w &&& r.mask = r.pattern := beq_iff_eq

/-- A row without operands selects its `match` alone. -/
theorem selects_iff_of_fullMask {r : CmdRow} {w : Word} (hm : r.mask = BitVec.allOnes 32) :
    r.selects w = true ↔ w = r.pattern := by
  rw [selects_iff, hm, BitVec.and_allOnes]

theorem decodeCommand_of_selects {r : CmdRow} {w : Word} (h : r.selects w = true) :
    decodeCommand w = some (r.instr w) :=
  decodeCommand_eq_some.2 ⟨r, h, rfl⟩

/-- A field that lies whole under a row's mask and is 0 in its `match` is 0 in every word the row selects. -/
theorem field_eq_zero_of_selects {r : CmdRow} {w : Word} (h : r.selects w = true) {start len : Nat}
    (hf : r.mask.extractLsb' start len = BitVec.allOnes len ∧ r.pattern.extractLsb' start len = 0) :
    w.extractLsb' start len = 0 := by
  obtain ⟨hmask, hpattern⟩ := hf
  have hw := congrArg (BitVec.extractLsb' start len) (selects_iff.1 h)
  rwa [BitVec.extractLsb'_and, hmask, BitVec.and_allOnes, hpattern] at hw

/-- A word with a reserved opcode, or with a reserved-zero bit of its format set, is no command (30_encoding.md R85,
R86). -/
theorem decodeCommand_undefined {w : Word}
    (h : opcodeOf w ∉ [0x00#8, 0x01#8, 0x02#8, 0x10#8, 0x11#8, 0x12#8] ∨
      (opcodeOf w ∈ [0x00#8, 0x01#8, 0x02#8] ∧ w.extractLsb' 8 24 ≠ 0) ∨
      (opcodeOf w = 0x10#8 ∧ (w.extractLsb' 17 15 ≠ 0 ∨ w.extractLsb' 12 4 ≠ 0)) ∨
      (opcodeOf w ∈ [0x11#8, 0x12#8] ∧ w.extractLsb' 17 15 ≠ 0)) :
    decodeCommand w = none := by
  refine decodeCommand_eq_none.2 fun r => Bool.eq_false_iff.2 fun hr => ?_
  rw [opcodeOf_of_selects hr] at h
  rcases h with hop | ⟨hop, h⟩ | ⟨hop, h | h⟩ | ⟨hop, h⟩
  · exact hop (by cases r <;> decide)
  all_goals exact h (field_eq_zero_of_selects hr (by revert hop; cases r <;> decide))

/-- A word is the encoding of the instruction of the row that selects it: mask and operands are all of its bits. -/
theorem encode_instr {r : CmdRow} {w : Word} (h : r.selects w = true) : encode (r.instr w) = .command w := by
  have hw := selects_iff.1 h
  cases r with
  | nop => exact congrArg Encoding.command ((selects_iff_of_fullMask rfl).1 h).symm
  | start => exact congrArg Encoding.command ((selects_iff_of_fullMask rfl).1 h).symm
  | cancel => exact congrArg Encoding.command ((selects_iff_of_fullMask rfl).1 h).symm
  | henc => exact congrArg Encoding.command (eq_formatFE_of_masked hw).symm
  | hdec => exact congrArg Encoding.command (eq_formatFB_of_masked hw).symm
  | hchk => exact congrArg Encoding.command (eq_formatFB_of_masked hw).symm

/-! ### Bus accesses (30_encoding.md R84) -/

theorem busCode_fields (code : BusCode) : busCode (hwriteOf code) (haddrOf code) = code := by
  rw [haddrOf, ← BitVec.setWidth_eq_extractLsb' (by decide)]
  exact BitVec.cons_msb_setWidth code

theorem decodeBus_rd (n : Nat) (a : WordAddr) (v : Word) : decodeBus n (busCode false a) v = .rd a := by
  simp [decodeBus]

/-- A write to a PAYLOAD address names the byte its offset counts; every register lies below (20_memory.md R52). -/
theorem decodeBus_payload {n : Nat} {a : WordAddr} (v : Word) (h : isPayloadAddr n a = true) :
    decodeBus n (busCode true a) v = .wrPayload (a - addrPayload) v := by
  have ha : 256 ≤ a.toNat := (of_decide_eq_true h).1
  have hne : ∀ r : WordAddr, r.toNat < 256 → a ≠ r := by rintro r hr rfl; omega
  simp [decodeBus, h, hne addrCmd (by decide), hne addrConfig (by decide), hne addrBps (by decide),
    hne addrLen (by decide)]

theorem isPayloadAddr_add {n : Nat} {k : BitVec 10} (hn : n ≤ 768) (hk : k.toNat < n) :
    isPayloadAddr n (addrPayload + k) = true := by
  simp [isPayloadAddr, Machine.payload_wordAddr_toNat hn hk, hk]

theorem payload_offset_lt {n : Nat} {a : WordAddr} (h : isPayloadAddr n a = true) :
    (a - addrPayload).toNat < n := by
  obtain ⟨hle, hlt⟩ := of_decide_eq_true h
  rwa [BitVec.toNat_sub_of_le (BitVec.le_def.2 hle)]

/-- A writable address is CMD, a register the host writes, or a byte of the buffer (20_memory.md R52). -/
theorem isWritable_cases {n : Nat} {a : WordAddr} (h : isWritable n a = true) :
    a = addrCmd ∨ a = addrConfig ∨ a = addrBps ∨ a = addrLen ∨ isPayloadAddr n a = true := by
  simpa [isWritable, or_assoc] using h

theorem encode_decodeBus_write (n : Nat) (a : WordAddr) (v : Word) :
    encode (decodeBus n (busCode true a) v) = .bus (busCode true a) v ∧
      (decodeBus n (busCode true a) v).wellFormed n = true := by
  cases hw : isWritable n a with
  | false =>
    rw [Machine.decodeBus_wrIgnored v hw]
    exact ⟨rfl, by simp [Instr.wellFormed, hw]⟩
  | true =>
    rcases isWritable_cases hw with rfl | rfl | rfl | rfl | hp
    · exact ⟨rfl, rfl⟩
    · exact ⟨rfl, rfl⟩
    · exact ⟨rfl, rfl⟩
    · exact ⟨rfl, rfl⟩
    · rw [decodeBus_payload v hp]
      exact ⟨by simp [encode], decide_eq_true (payload_offset_lt hp)⟩

end Sys2Proof

/-! SUPPORT. The frame by position, and the codec commands on a bad operand. -/

namespace Sys2Proof.Machine

theorem frameBits_take_start (bytes : List Byte) (hamEn xparEn : Bool) :
    (frameBits bytes hamEn xparEn).take 8 = startMarker := by
  simp [frameBits, startMarker]

theorem frameBits_drop_start (bytes : List Byte) (hamEn xparEn : Bool) :
    (frameBits bytes hamEn xparEn).drop 8 = payloadBits bytes hamEn xparEn ++ (stopMarker ++ resetBit) := by
  simp [frameBits, startMarker]

theorem blockCommand_bad {r : Byte → Bool → Word} {blk : Byte} {xp : Bool} {s : State} (h : badBlock blk xp = true) :
    blockCommand r blk xp s = .next (s.setErr .invalidInput) := if_pos h

end Sys2Proof.Machine

/-! SUPPORT. The obligations on the encodings (30_encoding.md) and on the frame's layout (42_frame.md). -/

namespace Sys2Proof.Machine

/-- Settles O6: a command by the row that selects its format, a bus write by its address. -/
theorem decodeEncodeAgree : Obligations.DecodeEncodeAgree := by
  rintro p i ⟨-, hbuf, -, -⟩ hwf
  cases i with
  | nop => rfl
  | start => rfl
  | cancel => rfl
  | henc nib xp =>
    refine (decodeCommand_of_selects (r := .henc) (selects_iff.2 (formatFE_masked ..))).trans ?_
    simp [CmdRow.instr]
  | hdec blk xp =>
    refine (decodeCommand_of_selects (r := .hdec) (selects_iff.2 (formatFB_masked ..))).trans ?_
    simp [CmdRow.instr]
  | hchk blk xp =>
    refine (decodeCommand_of_selects (r := .hchk) (selects_iff.2 (formatFB_masked ..))).trans ?_
    simp [CmdRow.instr]
  | rd a => exact congrArg some (decodeBus_rd ..)
  | wrCmd w => rfl
  | wrConfig v => rfl
  | wrBps v => rfl
  | wrLen v => rfl
  | wrPayload k v =>
    have hk : k.toNat < p.nBuf := of_decide_eq_true hwf
    refine congrArg some ((decodeBus_payload v (isPayloadAddr_add hbuf hk)).trans ?_)
    simp
  | wrIgnored a v => exact congrArg some (decodeBus_wrIgnored v (by simpa [Instr.wellFormed] using hwf))

/-- Settles O7: a command word through the row that selects it, a bus write through its address. -/
theorem everyDecodedWordIsTheEncodingOfItsInstruction :
    Obligations.EveryDecodedWordIsTheEncodingOfItsInstruction := by
  refine ⟨fun w i h => ?_, fun n code v hwrite => ?_⟩
  · obtain ⟨r, hr, rfl⟩ := decodeCommand_eq_some.1 h
    exact encode_instr hr
  · have hcode : busCode true (haddrOf code) = code := hwrite ▸ busCode_fields code
    rw [← hcode]
    exact encode_decodeBus_write ..

/-- Settles O8: each condition says that one row selects the word. -/
theorem commandDecoderFollowsTheOpcodeMap : Obligations.CommandDecoderFollowsTheOpcodeMap := by
  intro w
  split_ifs with hnop hstart hcancel hhenc hhdec hhchk
  · exact decodeCommand_of_selects ((selects_iff_of_fullMask (r := .nop) rfl).2 hnop)
  · exact decodeCommand_of_selects ((selects_iff_of_fullMask (r := .start) rfl).2 hstart)
  · exact decodeCommand_of_selects ((selects_iff_of_fullMask (r := .cancel) rfl).2 hcancel)
  · exact decodeCommand_of_selects (r := .henc) (selects_iff.2 hhenc)
  · exact decodeCommand_of_selects (r := .hdec) (selects_iff.2 hhdec)
  · exact decodeCommand_of_selects (r := .hchk) (selects_iff.2 hhchk)
  · refine decodeCommand_eq_none.2 fun r => Bool.eq_false_iff.2 fun hr => ?_
    cases r with
    | nop => exact hnop ((selects_iff_of_fullMask rfl).1 hr)
    | start => exact hstart ((selects_iff_of_fullMask rfl).1 hr)
    | cancel => exact hcancel ((selects_iff_of_fullMask rfl).1 hr)
    | henc => exact hhenc (selects_iff.1 hr)
    | hdec => exact hhdec (selects_iff.1 hr)
    | hchk => exact hhchk (selects_iff.1 hr)

/-- Settles O9: no row selects such a word. -/
theorem undefinedCommandWordsAreInvalidCommand : Obligations.UndefinedCommandWordsAreInvalidCommand :=
  fun s _ h => exec_wrCmd_invalid (decodeCommand_undefined h) s

/-- Settles O41: the frame is cut at 8 and at 8 + W. -/
theorem frameLayoutByPosition : Obligations.FrameLayoutByPosition := by
  intro bytes hamEn xparEn w f
  have hlen : (payloadBits bytes hamEn xparEn).length = w := payloadBits_length ..
  have hf : f.length = w + 17 := frameBits_length ..
  have hw : w % 2 = 0 := by simp only [w]; split_ifs <;> omega
  refine ⟨hf, by omega, frameBits_take_start .., ?_, ?_, ?_⟩
  · rw [frameBits_drop_start, List.take_left' hlen]
  · rw [← List.drop_drop, frameBits_drop_start, List.drop_left' hlen]
    rfl
  · rintro rfl
    rfl

/-- Settles O5, by running the decoders on each word. -/
theorem specWordsDecode : Obligations.SpecWordsDecode := by
  unfold Obligations.SpecWordsDecode
  decide

/-- Settles O19: the operand check refuses both commands. -/
theorem eightBitOperandWithoutXpIsInvalidInput : Obligations.EightBitOperandWithoutXpIsInvalidInput :=
  fun s blk h =>
    have hbad : badBlock blk false = true := by simp [badBlock, h]
    ⟨(exec_hdec blk false s).trans (blockCommand_bad hbad), (exec_hchk blk false s).trans (blockCommand_bad hbad)⟩

end Sys2Proof.Machine

/-! SUPPORT. The frames of the commands that begin no transmission, and the words of NOP (40_commands.md). -/

namespace Sys2Proof.Machine

/-! ### Frames -/

section
variable {s t : State}

theorem exec_nop_frame (h : exec .nop s = .next t) : t = { s with err := t.err } := by
  cases h; rfl

theorem exec_cancel_frame (h : exec .cancel s = .next t) :
    t = { s with sched := t.sched, cancelled := t.cancelled, err := t.err } := by
  rcases execCancel_cases h with ⟨-, rfl⟩ | ⟨-, rfl⟩ <;> rfl

theorem blockCommand_frame {r : Byte → Bool → Word} {blk : Byte} {xp : Bool}
    (h : blockCommand r blk xp s = .next t) : t = { s with codecRes := t.codecRes, err := t.err } := by
  rcases blockCommand_cases h with ⟨-, rfl⟩ | ⟨-, rfl⟩ <;> rfl

theorem exec_codec_frame {i : Instr} (hi : IsCodec i) (h : exec i s = .next t) :
    t = { s with codecRes := t.codecRes, err := t.err } := by
  rcases hi with ⟨nib, xp, rfl⟩ | ⟨blk, xp, rfl⟩ | ⟨blk, xp, rfl⟩
  · cases h; rfl
  · exact blockCommand_frame h
  · exact blockCommand_frame h

end

/-! ### The words of NOP -/

/-- A word whose opcode is NOP's and that is not 0 has a reserved-zero bit set (30_encoding.md R86). -/
theorem decodeCommand_of_opcode_zero {w : Word} (hop : opcodeOf w = 0) (hw : w ≠ 0) : decodeCommand w = none := by
  refine decodeCommand_eq_none.2 fun r => Bool.eq_false_iff.2 fun hr => ?_
  rw [opcodeOf_of_selects hr] at hop
  cases r with
  | nop => exact hw ((selects_iff_of_fullMask rfl).1 hr)
  | start | cancel | henc | hdec | hchk => exact absurd hop (by decide)

theorem decodeCommand_eq_nop {w : Word} : decodeCommand w = some .nop ↔ w = 0 := by
  constructor
  · intro h
    exact (Encoding.command.inj (everyDecodedWordIsTheEncodingOfItsInstruction.1 w .nop h)).symm
  · rintro rfl
    rfl

end Sys2Proof.Machine

/-! SUPPORT. The obligations on the commands and on all accesses together (40_commands.md). -/

namespace Sys2Proof.Machine

/-- Settles O10: the access is the command its word decodes to, and every access completes. -/
theorem commandWritePerformsTheDecodedCommand : Obligations.CommandWritePerformsTheDecodedCommand :=
  fun s w => ⟨fun _ h => exec_wrCmd_of_decode h s, fun h => exec_wrCmd_invalid h s, exec_completes (.wrCmd w) s⟩

/-- Settles O11: NOP's row selects the word 0 alone, and no other row has its opcode. -/
theorem nopSetsErrToOk : Obligations.NopSetsErrToOk :=
  ⟨exec_nop, fun _ => decodeCommand_eq_nop,
    fun s _ hop hw => exec_wrCmd_invalid (decodeCommand_of_opcode_zero hop hw) s⟩

/-- Settles O26: no frame of the five commands names PAYLOAD or the tick's draw number. -/
theorem frameOfNopCancelAndCodec : Obligations.FrameOfNopCancelAndCodec := by
  refine fun s t => ⟨exec_nop_frame, exec_cancel_frame, fun i => exec_codec_frame, fun i hi h k => ?_⟩
  rcases hi with rfl | rfl | hi
  · rw [exec_nop_frame h]; rfl
  · rw [exec_cancel_frame h]; rfl
  · rw [exec_codec_frame hi h]; rfl

/-- Settles O30: an access that writes more than ERR and a read's result ends by setting ERR to OK. -/
theorem rejectionIsPrecise : Obligations.RejectionIsPrecise := by
  intro i s t h herr
  cases exec_access h with
  | same => exact .inl rfl
  | read a hi => exact .inr ⟨a, _, hi, rfl⟩
  | error e => exact .inl rfl
  | config | bps | len | payload | henc | hdec | hchk | start | cancel => exact absurd rfl herr

/-- Settles O29. -/
theorem everyInstructionCompletes : Obligations.EveryInstructionCompletes := exec_completes

end Sys2Proof.Machine

/-! SUPPORT. Bit strings against the words that hold them: packing, a block operand, a flipped position. -/

namespace Sys2Proof.Machine

@[simp] theorem pack_append_singleton (b : Bits) (x : Bool) : pack (b ++ [x]) = 2 * pack b + x.toNat := by
  simp [pack]

/-- Bit k of a packed string is its position `length - k`. -/
theorem testBit_pack (b : Bits) (k : Nat) :
    (pack b).testBit k = (decide (k < b.length) && bitAt b (b.length - k)) := by
  induction b using List.reverseRecOn generalizing k with
  | nil => simp [pack]
  | append_singleton b x ih =>
    cases k with
    | zero => cases x <;> simp [bitAt]
    | succ k =>
      have hhalf : (2 * pack b + x.toNat) / 2 = pack b := by cases x <;> simp; omega
      rw [pack_append_singleton, Nat.testBit_succ, hhalf, ih]
      by_cases hk : k < b.length
      · have hpos : b.length - k - 1 < b.length := by omega
        simp [bitAt, hk, List.getD_eq_getElem?_getD, List.getElem?_append_left hpos]
      · simp [hk]

theorem getLsbD_ofNat_pack {n k : Nat} (b : Bits) (hk : k < n) :
    (BitVec.ofNat n (pack b)).getLsbD k = (decide (k < b.length) && bitAt b (b.length - k)) := by
  rw [BitVec.getLsbD_ofNat, testBit_pack, decide_eq_true hk, Bool.true_and]

@[simp] theorem bitsOf_getElem {n i : Nat} (v : BitVec n) (h : i < (bitsOf n v).length) :
    (bitsOf n v)[i] = v.getMsbD i := by
  simp [bitsOf]

theorem bitAt_eq_getElem {b : Bits} {i : Nat} (h : i - 1 < b.length) : bitAt b i = b[i - 1] := by
  simp [bitAt, h]

theorem bitAt_bitsOf {n i : Nat} (v : BitVec n) (h1 : 1 ≤ i) (hn : i ≤ n) :
    bitAt (bitsOf n v) i = v.getLsbD (n - i) := by
  rw [bitAt_eq_getElem (by simp; omega), bitsOf_getElem, BitVec.getMsbD_eq_getLsbD, decide_eq_true (by omega),
    Bool.true_and]
  congr 1
  omega

@[simp] theorem ofNat_pack_bitsOf {n : Nat} (v : BitVec n) : BitVec.ofNat n (pack (bitsOf n v)) = v := by
  refine BitVec.eq_of_getLsbD_eq fun k hk => ?_
  rw [getLsbD_ofNat_pack _ hk, bitsOf_length, decide_eq_true hk, bitAt_bitsOf v (by omega) (by omega), Bool.true_and]
  congr 1
  omega

theorem bits_ext {b c : Bits} (hlen : b.length = c.length)
    (hbit : ∀ i, 1 ≤ i → i ≤ b.length → bitAt b i = bitAt c i) : b = c := by
  refine List.ext_getElem hlen fun i hb hc => ?_
  have h := hbit (i + 1) (by omega) hb
  rwa [bitAt_eq_getElem hb, bitAt_eq_getElem hc] at h

theorem bitsOf_ofNat_pack {n : Nat} {b : Bits} (h : b.length = n) : bitsOf n (BitVec.ofNat n (pack b)) = b := by
  refine bits_ext (by simp [h]) fun i h1 hi => ?_
  rw [bitsOf_length] at hi
  rw [bitAt_bitsOf _ h1 hi, getLsbD_ofNat_pack _ (by omega), h, decide_eq_true (by omega), Bool.true_and]
  congr 1
  omega

/-! ### A flipped position (41_hamming.md R130) -/

@[simp] theorem flipAt_length (b : Bits) (i : Nat) : (flipAt b i).length = b.length := by simp [flipAt]

theorem bitAt_flipAt_same {b : Bits} {i : Nat} (h1 : 1 ≤ i) (hi : i ≤ b.length) :
    bitAt (flipAt b i) i = !bitAt b i := by
  have hlt : i - 1 < b.length := by omega
  simp [bitAt, flipAt, hlt]

theorem bitAt_flipAt_other {b : Bits} {i j : Nat} (hi : 1 ≤ i) (hj : 1 ≤ j) (h : j ≠ i) :
    bitAt (flipAt b i) j = bitAt b j := by
  have hne : i - 1 ≠ j - 1 := by omega
  simp [bitAt, flipAt, List.getD_eq_getElem?_getD, hne]

@[simp] theorem flipAt_flipAt (b : Bits) (i : Nat) : flipAt (flipAt b i) i = b := by
  have hid : ((fun x : Bool => !x) ∘ fun x => !x) = id := by funext x; simp
  simp [flipAt, List.modify_modify_eq, hid]

theorem flipAt_ne {b : Bits} {i : Nat} (h1 : 1 ≤ i) (hi : i ≤ b.length) : flipAt b i ≠ b := fun h => by
  have hbit := bitAt_flipAt_same h1 hi
  simp [h] at hbit

/-! ### The operand of HDEC and HCHK (30_encoding.md R87, 41_hamming.md R136) -/

/-- The byte whose block is `b`, its top bit 0 where the block has 7 bits. -/
def blockByte (b : Bits) : Byte := BitVec.ofNat 8 (pack b)

@[simp] theorem blockOf_length (blk : Byte) (xp : Bool) : (blockOf blk xp).length = 7 + xp.toNat := by
  cases xp
  · exact bitsOf_length ..
  · exact bitsOf_length ..

theorem bitAt_blockOf {blk : Byte} {xp : Bool} {i : Nat} (h1 : 1 ≤ i) (hi : i ≤ 7 + xp.toNat) :
    bitAt (blockOf blk xp) i = blk.getLsbD (7 + xp.toNat - i) := by
  cases xp
  · have hlow : 7 - i < 7 := by omega
    refine (bitAt_bitsOf _ h1 hi).trans ?_
    simp [hlow]
  · exact bitAt_bitsOf _ h1 hi

section
variable {b : Bits} {xp : Bool} (hb : b.length = 7 + xp.toNat)
include hb

theorem getLsbD_blockByte {k : Nat} (hk : k < 8) :
    (blockByte b).getLsbD k = (decide (k < 7 + xp.toNat) && bitAt b (7 + xp.toNat - k)) := by
  rw [blockByte, getLsbD_ofNat_pack _ hk, hb]

theorem blockOf_blockByte : blockOf (blockByte b) xp = b := by
  refine bits_ext ((blockOf_length ..).trans hb.symm) fun i h1 hi => ?_
  rw [blockOf_length] at hi
  have hn : 7 + xp.toNat ≤ 8 := by cases xp <;> decide
  rw [bitAt_blockOf h1 hi, getLsbD_blockByte hb (by omega), decide_eq_true (by omega), Bool.true_and]
  congr 1
  omega

theorem badBlock_blockByte : badBlock (blockByte b) xp = false := by
  cases xp
  · exact getLsbD_blockByte hb (k := 7) (by decide)
  · rfl

/-- Bit j of the operand is position n - j of the block. -/
theorem blockByte_xor_shift {j : Nat} (hj : j < 7 + xp.toNat) :
    blockByte b ^^^ (1#8 <<< j) = blockByte (flipAt b (7 + xp.toNat - j)) := by
  have hn : 7 + xp.toNat ≤ 8 := by cases xp <;> decide
  refine BitVec.eq_of_getLsbD_eq fun k hk => ?_
  rw [BitVec.getLsbD_xor, getLsbD_blockByte hb hk, getLsbD_blockByte ((flipAt_length ..).trans hb) hk]
  rcases eq_or_ne k j with rfl | hkj
  · rw [bitAt_flipAt_same (by omega) (by omega)]
    simp [hj, hk]
  · have hshift : (1#8 <<< j).getLsbD k = false := by
      rw [← BitVec.twoPow_eq, BitVec.getLsbD_twoPow]; simp; omega
    by_cases hkn : k < 7 + xp.toNat
    · rw [bitAt_flipAt_other (by omega) (by omega) (by omega), hshift, Bool.xor_false]
    · simp [hkn, hshift]

end

theorem blockByte_blockOf {blk : Byte} {xp : Bool} (h : badBlock blk xp = false) :
    blockByte (blockOf blk xp) = blk := by
  refine BitVec.eq_of_getLsbD_eq fun k hk => ?_
  rw [getLsbD_blockByte (blockOf_length ..) hk]
  by_cases hkn : k < 7 + xp.toNat
  · rw [bitAt_blockOf (by omega) (by omega), decide_eq_true hkn, Bool.true_and]
    congr 1
    omega
  · cases xp
    · obtain rfl : k = 7 := by simp at hkn; omega
      exact h.symm
    · exact absurd hk hkn

end Sys2Proof.Machine

/-! SUPPORT. The Hamming code: its codewords, one position flipped, and the table of the decoder (41_hamming.md sections
1 to 3). -/

namespace Sys2Proof.Machine

/-! ### Codewords (41_hamming.md R124, R125, R132) -/

section
variable (d1 d2 d3 d4 xp : Bool)

theorem syndrome_hamEncodeNibble : syndrome (hamEncodeNibble d1 d2 d3 d4 xp) = 0 := by
  revert d1 d2 d3 d4 xp; decide

theorem overallParity_hamEncodeNibble : overallParity (hamEncodeNibble d1 d2 d3 d4 xp) = false := by
  cases xp
  · rfl
  · simp [overallParity, hamEncodeNibble]

theorem strip_hamEncodeNibble : strip (hamEncodeNibble d1 d2 d3 d4 xp) = [d1, d2, d3, d4] := by
  cases xp <;> rfl

theorem hamCheck_hamEncodeNibble : hamCheck (hamEncodeNibble d1 d2 d3 d4 xp) xp = false := by
  simp [hamCheck, syndrome_hamEncodeNibble, overallParity_hamEncodeNibble]

end

/-- The syndrome is 0 exactly if the groups of the three parity bits have even parity (41_hamming.md R122, R128). -/
theorem syndrome_eq_zero_iff (b : Bits) : syndrome b = 0 ↔
    bitAt b 1 = (bitAt b 3 ^^ bitAt b 5 ^^ bitAt b 7) ∧ bitAt b 2 = (bitAt b 3 ^^ bitAt b 6 ^^ bitAt b 7) ∧
      bitAt b 4 = (bitAt b 5 ^^ bitAt b 6 ^^ bitAt b 7) := by
  simp only [syndrome, List.foldl_cons, List.foldl_nil]
  generalize bitAt b 1 = b1, bitAt b 2 = b2, bitAt b 3 = b3, bitAt b 4 = b4, bitAt b 5 = b5, bitAt b 6 = b6,
    bitAt b 7 = b7
  revert b1 b2 b3 b4 b5 b6 b7
  decide

theorem hamCheck_eq_false_iff {b : Bits} {xp : Bool} (hb : b.length = 7 + xp.toNat) :
    hamCheck b xp = false ↔ b = hamEncodeNibble (bitAt b 3) (bitAt b 5) (bitAt b 6) (bitAt b 7) xp := by
  constructor
  · intro h
    obtain ⟨hsyn, hpar⟩ : syndrome b = 0 ∧ (xp && overallParity b) = false := by simpa [hamCheck] using h
    obtain ⟨h1, h2, h4⟩ := (syndrome_eq_zero_iff b).1 hsyn
    cases xp
    · match b, hb with
      | [b1, b2, b3, b4, b5, b6, b7], _ =>
        obtain rfl : b1 = (b3 ^^ b5 ^^ b7) := h1
        obtain rfl : b2 = (b3 ^^ b6 ^^ b7) := h2
        obtain rfl : b4 = (b5 ^^ b6 ^^ b7) := h4
        rfl
    · match b, hb with
      | [b1, b2, b3, b4, b5, b6, b7, q], _ =>
        obtain rfl : b1 = (b3 ^^ b5 ^^ b7) := h1
        obtain rfl : b2 = (b3 ^^ b6 ^^ b7) := h2
        obtain rfl : b4 = (b5 ^^ b6 ^^ b7) := h4
        obtain rfl : _ = q := bne_eq_false_iff_eq.1 hpar
        rfl
  · intro h
    rw [h]
    exact hamCheck_hamEncodeNibble ..

/-! ### One flipped position -/

/-- The sum over GF(2) of the masks of the positions a predicate picks is linear in the predicate. -/
theorem foldl_mask_xor {w : Nat} (f : Nat → BitVec w) (p q : Nat → Bool) (l : List Nat) : ∀ a c : BitVec w,
    l.foldl (fun s j => if p j ^^ q j then s ^^^ f j else s) (a ^^^ c) =
      l.foldl (fun s j => if p j then s ^^^ f j else s) a ^^^ l.foldl (fun s j => if q j then s ^^^ f j else s) c := by
  induction l with
  | nil => intro a c; rfl
  | cons x l ih =>
    intro a c
    have hright : a ^^^ c ^^^ f x = a ^^^ f x ^^^ c := by ac_rfl
    have hcancel : a ^^^ c = a ^^^ f x ^^^ (c ^^^ f x) := calc
      a ^^^ c = a ^^^ c ^^^ (f x ^^^ f x) := by rw [BitVec.xor_self, BitVec.xor_zero]
      _ = a ^^^ f x ^^^ (c ^^^ f x) := by ac_rfl
    have hstep : (if p x ^^ q x then a ^^^ c ^^^ f x else a ^^^ c) =
        (if p x then a ^^^ f x else a) ^^^ (if q x then c ^^^ f x else c) := by
      cases p x <;> cases q x
      · rfl
      · exact BitVec.xor_assoc ..
      · exact hright
      · exact hcancel
    rw [List.foldl_cons, hstep, ih]
    rfl

theorem bitAt_flipAt {b : Bits} {i j : Nat} (h1 : 1 ≤ i) (hi : i ≤ b.length) (hj : 1 ≤ j) :
    bitAt (flipAt b i) j = (bitAt b j ^^ j == i) := by
  rcases eq_or_ne j i with rfl | h
  · rw [bitAt_flipAt_same h1 hi, beq_self_eq_true, Bool.xor_true]
  · rw [bitAt_flipAt_other h1 hj h, beq_false_of_ne h, Bool.xor_false]

/-- A flip moves the syndrome by its position; position 8 takes no part in it (41_hamming.md R128). -/
theorem syndrome_flipAt {b : Bits} {i : Nat} (h1 : 1 ≤ i) (hi : i ≤ b.length) (h8 : i ≤ 8) :
    syndrome (flipAt b i) = syndrome b ^^^ BitVec.ofNat 3 i := by
  have hmask : [1, 2, 3, 4, 5, 6, 7].foldl (fun s j => if j == i then s ^^^ BitVec.ofNat 3 j else s) 0 =
      BitVec.ofNat 3 i := by
    interval_cases i <;> rfl
  calc syndrome (flipAt b i)
      = [1, 2, 3, 4, 5, 6, 7].foldl (fun s j => if bitAt b j ^^ j == i then s ^^^ BitVec.ofNat 3 j else s)
          (0 ^^^ 0) := by
        refine List.foldl_ext _ _ _ fun s j hj => ?_
        rw [bitAt_flipAt h1 hi (by simp at hj; omega)]
    _ = syndrome b ^^^ BitVec.ofNat 3 i := by rw [foldl_mask_xor, hmask]; rfl

theorem foldl_xor_not (b : Bits) : ∀ a : Bool, b.foldl (· ^^ ·) (!a) = !b.foldl (· ^^ ·) a := by
  induction b with
  | nil => intro a; rfl
  | cons x b ih => intro a; simp [← ih]

theorem foldl_xor_modify (b : Bits) : ∀ (i : Nat) (a : Bool), i < b.length →
    (b.modify i fun x => !x).foldl (· ^^ ·) a = !b.foldl (· ^^ ·) a := by
  induction b with
  | nil => intro i a h; simp at h
  | cons x b ih =>
    intro i a h
    cases i with
    | zero => simp [foldl_xor_not]
    | succ i => simpa using ih i _ (by simpa using h)

/-- A flip inverts the overall parity of an 8-bit block; that of a 7-bit block is 0 (41_hamming.md R129). -/
theorem overallParity_flipAt {b : Bits} {xp : Bool} {i : Nat} (hb : b.length = 7 + xp.toNat) (h1 : 1 ≤ i)
    (hi : i ≤ b.length) : overallParity (flipAt b i) = (overallParity b ^^ xp) := by
  cases xp
  · simp [overallParity, hb]
  · simp only [overallParity, flipAt_length, hb, Bool.xor_true]
    exact foldl_xor_modify b _ _ (by omega)

/-! ### The decoder's table (41_hamming.md R130, R131), on the block of either size -/

section
variable {b : Bits} {xp : Bool}

theorem hamDecode_clean (hs : syndrome b = 0) (hq : overallParity b = false) :
    hamDecode b xp = ⟨strip b, 0, false, .clean⟩ := by
  cases xp <;> simp [hamDecode, hamDecode7, hamDecode8, hs, hq]

/-- A syndrome that names a position, with the overall parity of one error: the position is flipped. -/
theorem hamDecode_corrected (hs : syndrome b ≠ 0) (hq : overallParity b = xp) :
    hamDecode b xp = ⟨strip (flipAt b (syndrome b).toNat), syndrome b, xp, .corrected⟩ := by
  have hd : decide (syndrome b = 0) = false := decide_eq_false hs
  cases xp
  · simp only [hamDecode, hamDecode7, if_neg hs, if_pos hs, Bool.false_eq_true, if_false]
  · simp only [hamDecode, hamDecode8, hd, hq]; rfl

/-- The error is in the overall-parity bit itself. -/
theorem hamDecode_corrected_parity (hs : syndrome b = 0) (hq : overallParity b = true) :
    hamDecode b true = ⟨strip b, 0, true, .corrected⟩ := by
  simp [hamDecode, hamDecode8, hs, hq]

theorem hamDecode_uncorrectable (hs : syndrome b ≠ 0) (hq : overallParity b = false) :
    hamDecode b true = ⟨strip b, syndrome b, false, .uncorrectable⟩ := by
  have hd : decide (syndrome b = 0) = false := decide_eq_false hs
  simp only [hamDecode, hamDecode8, hd, hq]; rfl

end

/-! ### Errors in a codeword (41_hamming.md R138, R139) -/

/-- The mask of a position in the syndrome names the position; that of position 8 is 0. -/
theorem positionMask_inj {i k : Nat} (hi1 : 1 ≤ i) (hi : i ≤ 8) (hk1 : 1 ≤ k) (hk : k ≤ 8) :
    BitVec.ofNat 3 i = BitVec.ofNat 3 k ↔ i = k := by
  refine ⟨fun h => ?_, congrArg _⟩
  have hmod : i % 8 = k % 8 := congrArg BitVec.toNat h
  omega

theorem strip_flipAt_parity (b : Bits) : strip (flipAt b 8) = strip b := by
  simp [strip, bitAt_flipAt_other]

section
variable {c : Bits} {xp : Bool} {i k : Nat} (hlen : c.length = 7 + xp.toNat) (hc : hamCheck c xp = false)
include hlen hc

theorem codeword_syndrome : syndrome c = 0 := by
  rw [(hamCheck_eq_false_iff hlen).1 hc, syndrome_hamEncodeNibble]

theorem codeword_overallParity : overallParity c = false := by
  rw [(hamCheck_eq_false_iff hlen).1 hc, overallParity_hamEncodeNibble]

theorem hamDecode_codeword : hamDecode c xp = ⟨strip c, 0, false, .clean⟩ :=
  hamDecode_clean (codeword_syndrome hlen hc) (codeword_overallParity hlen hc)

variable (hi1 : 1 ≤ i) (hi : i ≤ 7 + xp.toNat)
include hi1 hi

theorem syndrome_flip_codeword : syndrome (flipAt c i) = BitVec.ofNat 3 i := by
  have hxp := xp.toNat_le
  rw [syndrome_flipAt hi1 (by omega) (by omega), codeword_syndrome hlen hc]
  exact BitVec.zero_xor

theorem overallParity_flip_codeword : overallParity (flipAt c i) = xp := by
  rw [overallParity_flipAt hlen hi1 (by omega), codeword_overallParity hlen hc, Bool.false_xor]

/-- One flipped position of a codeword is corrected: the data is the codeword's. -/
theorem hamDecode_flip_codeword :
    (hamDecode (flipAt c i) xp).data = strip c ∧ (hamDecode (flipAt c i) xp).dst = .corrected := by
  have hxp := xp.toNat_le
  have hsyn := syndrome_flip_codeword hlen hc hi1 hi
  have hpar := overallParity_flip_codeword hlen hc hi1 hi
  by_cases h8 : i = 8
  · subst h8
    obtain rfl : xp = true := Bool.toNat_eq_one.1 (by omega)
    rw [hamDecode_corrected_parity hsyn hpar, strip_flipAt_parity]
    exact ⟨rfl, rfl⟩
  · have hne : syndrome (flipAt c i) ≠ 0 :=
      fun h => h8 ((positionMask_inj hi1 (by omega) (by decide) (by decide)).1 (hsyn.symm.trans h))
    rw [hamDecode_corrected hne hpar, hsyn, BitVec.toNat_ofNat, Nat.mod_eq_of_lt (by omega), flipAt_flipAt]
    exact ⟨rfl, rfl⟩

variable (hk1 : 1 ≤ k) (hk : k ≤ 7 + xp.toNat)
include hk1 hk

theorem syndrome_two_flips_codeword (hne : i ≠ k) : syndrome (flipAt (flipAt c i) k) ≠ 0 := by
  have hxp := xp.toNat_le
  rw [syndrome_flipAt hk1 (by rw [flipAt_length]; omega) (by omega), syndrome_flip_codeword hlen hc hi1 hi]
  exact fun h => hne ((positionMask_inj hi1 (by omega) hk1 (by omega)).1 (BitVec.xor_eq_zero_iff.1 h))

theorem overallParity_two_flips_codeword : overallParity (flipAt (flipAt c i) k) = false := by
  have hlen' : (flipAt c i).length = 7 + xp.toNat := (flipAt_length ..).trans hlen
  rw [overallParity_flipAt hlen' hk1 (by omega), overallParity_flip_codeword hlen hc hi1 hi, Bool.xor_self]

end

end Sys2Proof.Machine

/-! SUPPORT. The codec commands by the block they work on: HENC's byte, the operand of HDEC and HCHK, the fields of
CODEC_RES (41_hamming.md section 4). -/

namespace Sys2Proof.Machine

/-! ### The fields of CODEC_RES (10_state.md R36) -/

section
variable (xp chk : Bool) (dst : BitVec 2) (qerr : Bool) (syn : BitVec 4) (data : Byte)

theorem codecWord_data : (codecWord xp chk dst qerr syn data).extractLsb' 0 8 = data :=
  BitVec.extractLsb'_append_eq_right

theorem codecWord_syn : (codecWord xp chk dst qerr syn data).extractLsb' 8 4 = syn :=
  (BitVec.extractLsb'_append_eq_of_le (by decide)).trans BitVec.extractLsb'_append_eq_right

theorem codecWord_chk : (codecWord xp chk dst qerr syn data).getLsbD 15 = chk := by
  simp only [codecWord, BitVec.getLsbD_append]
  simp

end

/-! ### HENC -/

theorem hamEncodeField_length (nib : BitVec 4) (xp : Bool) : (hamEncodeField nib xp).length = 7 + xp.toNat :=
  hamEncodeNibble_length ..

theorem hamCheck_hamEncodeField (nib : BitVec 4) (xp : Bool) : hamCheck (hamEncodeField nib xp) xp = false :=
  hamCheck_hamEncodeNibble ..

theorem strip_hamEncodeField (nib : BitVec 4) (xp : Bool) : strip (hamEncodeField nib xp) = bitsOf 4 nib :=
  strip_hamEncodeNibble ..

/-- The block of a nibble field by the nibble's bit string (41_hamming.md R133). -/
theorem hamEncodeField_eq (nib : BitVec 4) (xp : Bool) : hamEncodeField nib xp =
    hamEncodeNibble (bitAt (bitsOf 4 nib) 1) (bitAt (bitsOf 4 nib) 2) (bitAt (bitsOf 4 nib) 3) (bitAt (bitsOf 4 nib) 4)
      xp :=
  rfl

/-- Every nibble is that of some field. -/
theorem hamEncodeField_ofNat_pack (d1 d2 d3 d4 xp : Bool) :
    hamEncodeField (BitVec.ofNat 4 (pack [d1, d2, d3, d4])) xp = hamEncodeNibble d1 d2 d3 d4 xp := by
  rw [hamEncodeField_eq, bitsOf_ofNat_pack (n := 4) rfl]
  rfl

/-- The codewords are the blocks of HENC. -/
theorem hamCheck_eq_false_iff_exists {b : Bits} {xp : Bool} (hb : b.length = 7 + xp.toNat) :
    hamCheck b xp = false ↔ ∃ nib, hamEncodeField nib xp = b := by
  constructor
  · intro h
    exact ⟨_, (hamEncodeField_ofNat_pack ..).trans ((hamCheck_eq_false_iff hb).1 h).symm⟩
  · rintro ⟨nib, rfl⟩
    exact hamCheck_hamEncodeField ..

theorem exec_henc_writes (s : State) (nib : BitVec 4) (xp : Bool) :
    exec (.henc nib xp) s = .next { s with codecRes := hencWord nib xp, err := .ok } := rfl

theorem exec_henc_data {s t : State} {nib : BitVec 4} {xp : Bool} (h : exec (.henc nib xp) s = .next t) :
    t.codecRes.extractLsb' 0 8 = blockByte (hamEncodeField nib xp) := by
  cases h
  exact codecWord_data ..

/-! ### The code is linear (41_hamming.md R134) -/

theorem hamEncodeNibble_xor (a1 a2 a3 a4 b1 b2 b3 b4 xp : Bool) :
    List.zipWith xor (hamEncodeNibble a1 a2 a3 a4 xp) (hamEncodeNibble b1 b2 b3 b4 xp) =
      hamEncodeNibble (a1 ^^ b1) (a2 ^^ b2) (a3 ^^ b3) (a4 ^^ b4) xp := by
  cases xp
  · simp [hamEncodeNibble, Bool.xor_left_comm]
  · simp [hamEncodeNibble, Bool.xor_left_comm]

theorem hamEncodeField_xor (n m : BitVec 4) (xp : Bool) :
    List.zipWith xor (hamEncodeField n xp) (hamEncodeField m xp) = hamEncodeField (n ^^^ m) xp := by
  simp only [hamEncodeField, hamEncodeNibble_xor, BitVec.getLsbD_xor]

/-- The 15 blocks other than that of 0 hold at least 3 ones, at least 4 with the overall-parity bit. -/
theorem hamEncodeField_weight (n : BitVec 4) (xp : Bool) (h : n ≠ 0) :
    3 + xp.toNat ≤ ((hamEncodeField n xp).map Bool.toNat).sum := by
  revert n xp; decide

/-! ### HDEC and HCHK -/

theorem blockCommand_good {r : Byte → Bool → Word} {blk : Byte} {xp : Bool} {s : State}
    (h : badBlock blk xp = false) :
    blockCommand r blk xp s = .next ((s.setCodecRes (r blk xp)).setErr .ok) :=
  if_neg (Bool.eq_false_iff.1 h)

theorem badBlock_eq_false_iff {blk : Byte} {xp : Bool} :
    badBlock blk xp = false ↔ xp = true ∨ blk.getLsbD 7 = false := by
  cases xp <;> simp [badBlock]

/-- HDEC of a block: the decoder's fields are in CODEC_RES, and ERR is OK. -/
theorem exec_hdec_blockByte (s : State) {b : Bits} {xp : Bool} (hb : b.length = 7 + xp.toNat) :
    ∃ u, exec (.hdec (blockByte b) xp) s = .next u ∧ u.err = .ok ∧
      u.codecRes.extractLsb' 0 8 = 0#4 ++ BitVec.ofNat 4 (pack (hamDecode b xp).data) ∧
      u.codecRes.extractLsb' 8 4 = 0#1 ++ (hamDecode b xp).syn ∧
      u.codecRes.extractLsb' 13 2 = (hamDecode b xp).dst.code := by
  refine ⟨_, (exec_hdec ..).trans (blockCommand_good (badBlock_blockByte hb)), rfl, ?_, ?_, ?_⟩
  · exact (codecWord_data ..).trans (by rw [blockOf_blockByte hb])
  · exact (codecWord_syn ..).trans (by rw [blockOf_blockByte hb])
  · exact (codecWord_status ..).trans (by rw [blockOf_blockByte hb])

end Sys2Proof.Machine

/-! SUPPORT. The obligations on the codec commands (41_hamming.md sections 1 to 4). -/

namespace Sys2Proof.Machine

/-- Settles O16: HENC writes its word, whose bits are computed for each of the 16 nibbles with and without XP. -/
theorem hencWritesTheBlock : Obligations.HencWritesTheBlock := by
  intro s nib xp d1 d2 d3 d4 p1 p2 p4 q blk
  refine (exec_henc_writes s nib xp).trans
    (congrArg (fun w => Host.Outcome.next { s with codecRes := w, err := .ok }) ?_)
  revert nib xp
  decide

/-- Settles O17: the operand passes the check of its size. -/
theorem hdecWritesTheDecodedBlock : Obligations.HdecWritesTheDecodedBlock :=
  fun s blk xp h => (exec_hdec blk xp s).trans (blockCommand_good (badBlock_eq_false_iff.2 h))

/-- Settles O18: the operand passes the check of its size. -/
theorem hchkWritesTheCheck : Obligations.HchkWritesTheCheck :=
  fun s blk xp h => (exec_hchk blk xp s).trans (blockCommand_good (badBlock_eq_false_iff.2 h))

/-- Settles O36: bit j of the operand is position n - j of the block, and the decoder corrects one flipped position. -/
theorem hdecCorrectsEverySingleError : Obligations.HdecCorrectsEverySingleError := by
  intro s t nib xp henc
  have hlen := hamEncodeField_length nib xp
  have hcode := hamCheck_hamEncodeField nib xp
  rw [exec_henc_data henc]
  constructor
  · obtain ⟨u, hu, herr, hdata, -, hdst⟩ := exec_hdec_blockByte t hlen
    rw [hamDecode_codeword hlen hcode] at hdata hdst
    rw [strip_hamEncodeField, ofNat_pack_bitsOf] at hdata
    exact ⟨u, hu, herr, hdata, hdst⟩
  · intro j hj
    obtain ⟨hstrip, hst⟩ := hamDecode_flip_codeword hlen hcode (i := 7 + xp.toNat - j) (by omega) (by omega)
    obtain ⟨u, hu, herr, hdata, -, hdst⟩ := exec_hdec_blockByte t ((flipAt_length ..).trans hlen)
    rw [hstrip, strip_hamEncodeField, ofNat_pack_bitsOf] at hdata
    rw [hst] at hdst
    rw [blockByte_xor_shift hlen hj]
    exact ⟨u, hu, herr, hdata, hdst⟩

/-- Settles O37: two flips leave a syndrome and an even overall parity; 0 with its last two bits flipped decodes to a
nibble that is not 0. -/
theorem hdecOnDoubleErrors : Obligations.HdecOnDoubleErrors := by
  constructor
  · intro s t nib xp j k henc hjk hk
    have hlen := hamEncodeField_length nib xp
    have hcode := hamCheck_hamEncodeField nib xp
    have hlen' := (flipAt_length _ (7 + xp.toNat - j)).trans hlen
    have hsyn := syndrome_two_flips_codeword hlen hcode (i := 7 + xp.toNat - j) (k := 7 + xp.toNat - k) (by omega)
      (by omega) (by omega) (by omega) (by omega)
    have hpar := overallParity_two_flips_codeword hlen hcode (i := 7 + xp.toNat - j) (k := 7 + xp.toNat - k) (by omega)
      (by omega) (by omega) (by omega)
    obtain ⟨u, hu, herr, -, hsynField, hdst⟩ :=
      exec_hdec_blockByte t ((flipAt_length _ (7 + xp.toNat - k)).trans hlen')
    rw [exec_henc_data henc, blockByte_xor_shift hlen (by omega), blockByte_xor_shift hlen' hk]
    refine ⟨u, hu, herr, ?_, ?_⟩
    · rintro rfl
      rw [hamDecode_uncorrectable hsyn hpar] at hdst
      exact hdst
    · rintro rfl
      rw [hamDecode_corrected hsyn hpar] at hsynField hdst
      refine ⟨fun h0 => hsyn ?_, hdst⟩
      rw [hsynField] at h0
      exact BitVec.extractLsb'_append_eq_right.symm.trans (congrArg (BitVec.extractLsb' 0 3) h0)
  · intro s
    have hop : (hencWord 0 false).extractLsb' 0 8 ^^^ (1#8 <<< 0) ^^^ (1#8 <<< 1) = 3 := by decide
    have hdec : ∀ t, exec (.hdec 3 false) t = .next ((t.setCodecRes (hdecWord 3 false)).setErr .ok) :=
      fun t => (exec_hdec ..).trans (blockCommand_good (by decide))
    have hwrong : (hdecWord 3 false).extractLsb' 0 4 ≠ 0 := by decide
    exact ⟨_, _, 0, 0, 1, exec_henc .., by decide, by decide,
      (congrArg (fun blk => exec (.hdec blk false) _) hop).trans (hdec _), hwrong⟩

/-- Settles O38: CHK is HamCheck of the operand's block, and a block of its size is its operand. -/
theorem hchkIsZeroExactlyOnCodewords : Obligations.HchkIsZeroExactlyOnCodewords := by
  intro s blk xp h
  have hgood := badBlock_eq_false_iff.2 h
  have hchk : (hchkWord blk xp).getLsbD 15 = hamCheck (blockOf blk xp) xp := codecWord_chk ..
  refine ⟨_, (exec_hchk blk xp s).trans (blockCommand_good hgood), ?_⟩
  rw [State.setErr_codecRes, State.setCodecRes_codecRes, hchk, hamCheck_eq_false_iff_exists (blockOf_length ..)]
  constructor
  · rintro ⟨nib, hnib⟩
    refine ⟨nib, _, exec_henc .., ?_⟩
    rw [exec_henc_data (exec_henc nib xp s), hnib, blockByte_blockOf hgood]
  · rintro ⟨nib, u, hu, rfl⟩
    exact ⟨nib, by rw [exec_henc_data hu, blockOf_blockByte (hamEncodeField_length ..)]⟩

/-- Settles O39: the positions in which two blocks differ are the ones of the block of the nibbles' difference. -/
theorem hencBlocksAreFarApart : Obligations.HencBlocksAreFarApart := by
  refine fun n m xp => ⟨hamCheck_hamEncodeField .., strip_hamEncodeField .., fun hne => ?_⟩
  have hdiff := hamEncodeField_weight (n ^^^ m) xp (fun h => hne (BitVec.xor_eq_zero_iff.1 h))
  rwa [← hamEncodeField_xor, List.map_zipWith] at hdiff

end Sys2Proof.Machine

/-! SUPPORT. The streams of the codec, block by block (41_hamming.md section 5). -/

namespace Sys2Proof.Machine

/-! ### Strings of blocks of one length -/

section
variable {k : Nat}

/-- The m-th block of a string cut into blocks of k bits. -/
def chunk (k : Nat) (x : Bits) (m : Nat) : Bits := (x.drop (k * m)).take k

theorem flatten_cutBlocks (k : Nat) : ∀ (m : Nat) (x : Bits), (cutBlocks k m x).flatten = x.take (k * m)
  | 0, x => by simp [cutBlocks]
  | m + 1, x => by
    rw [cutBlocks, List.flatten_cons, flatten_cutBlocks k m, Nat.mul_succ, Nat.add_comm, List.take_add]

/-- A string of N blocks is its blocks in order. -/
theorem flatten_chunks {x : Bits} {N : Nat} (hx : x.length = k * N) :
    ((List.range N).map (chunk k x)).flatten = x := by
  have hcut := flatten_cutBlocks k N x
  rwa [cutBlocks_eq, ← hx, List.take_length] at hcut

theorem eq_of_chunks {x y : Bits} {N : Nat} (hx : x.length = k * N) (hy : y.length = k * N)
    (h : ∀ m, m < N → chunk k x m = chunk k y m) : x = y := by
  rw [← flatten_chunks hx, ← flatten_chunks hy]
  exact congrArg List.flatten (List.map_congr_left fun m hm => h m (List.mem_range.1 hm))

theorem chunk_flatten : ∀ {L : List Bits} {m : Nat} (_ : ∀ l ∈ L, l.length = k) (hm : m < L.length),
    chunk k L.flatten m = L[m]
  | l :: L, 0, hL, _ => by
    simpa [chunk] using List.take_left' (hL l List.mem_cons_self)
  | l :: L, m + 1, hL, hm => by
    have hl := hL l List.mem_cons_self
    have hdrop : (l ++ L.flatten).drop (k * (m + 1)) = L.flatten.drop (k * m) := by
      rw [Nat.mul_succ, Nat.add_comm, ← List.drop_drop, List.drop_left' hl]
    rw [List.flatten_cons, chunk, hdrop]
    exact chunk_flatten (fun l' hl' => hL l' (List.mem_cons_of_mem _ hl')) (by simpa using hm)

/-- The m-th block of N blocks given by their number. -/
theorem chunk_flatten_map_range {f : Nat → Bits} {N m : Nat} (hf : ∀ j, (f j).length = k) (hm : m < N) :
    chunk k ((List.range N).map f).flatten m = f m := by
  rw [chunk_flatten (by simpa using fun j _ => hf j) (by simpa using hm)]
  simp

theorem length_flatten_map_range {f : Nat → Bits} (N : Nat) (hf : ∀ j, (f j).length = k) :
    ((List.range N).map f).flatten.length = k * N := by
  simp [List.length_flatten, Function.comp_def, hf, Nat.mul_comm]

end

theorem chunk_four {x : Bits} {m : Nat} (hm : m < x.length / 4) :
    chunk 4 x m =
      [x.getD (4 * m) false, x.getD (4 * m + 1) false, x.getD (4 * m + 2) false, x.getD (4 * m + 3) false] := by
  have h0 : 4 * m < x.length := by omega
  have h1 : 4 * m + 1 < x.length := by omega
  have h2 : 4 * m + 2 < x.length := by omega
  have h3 : 4 * m + 3 < x.length := by omega
  rw [chunk, List.drop_eq_getElem_cons h0, List.drop_eq_getElem_cons h1, List.drop_eq_getElem_cons h2,
    List.drop_eq_getElem_cons h3, List.getD_eq_getElem _ _ h0, List.getD_eq_getElem _ _ h1, List.getD_eq_getElem _ _ h2,
    List.getD_eq_getElem _ _ h3]
  rfl

/-! ### The encoder -/

/-- The block of the m-th nibble of a string. -/
def nibbleBlock (x : Bits) (xp : Bool) (m : Nat) : Bits :=
  hamEncodeNibble (x.getD (4 * m) false) (x.getD (4 * m + 1) false) (x.getD (4 * m + 2) false)
    (x.getD (4 * m + 3) false) xp

theorem nibbleBlock_length (x : Bits) (xp : Bool) (m : Nat) : (nibbleBlock x xp m).length = 7 + xp.toNat :=
  hamEncodeNibble_length ..

theorem strip_nibbleBlock {x : Bits} (xp : Bool) {m : Nat} (hm : m < x.length / 4) :
    strip (nibbleBlock x xp m) = chunk 4 x m :=
  (strip_hamEncodeNibble ..).trans (chunk_four hm).symm

theorem nibbleBlock_succ (d1 d2 d3 d4 : Bool) (x : Bits) (xp : Bool) (m : Nat) :
    nibbleBlock (d1 :: d2 :: d3 :: d4 :: x) xp (m + 1) = nibbleBlock x xp m := by
  simp [nibbleBlock, Nat.mul_succ]

/-- The encoding is the block of each nibble in order (41_hamming.md R141). -/
theorem hamEncodeStream_eq (xp : Bool) : ∀ x : Bits, x.length % 4 = 0 →
    hamEncodeStream x xp = some ((List.range (x.length / 4)).map (nibbleBlock x xp)).flatten
  | [], _ => rfl
  | [_], h => by simp at h
  | [_, _], h => by simp at h
  | [_, _, _], h => by simp at h
  | d1 :: d2 :: d3 :: d4 :: r, h => by
    have hr : r.length % 4 = 0 := by simp only [List.length_cons] at h; omega
    have hdiv : (d1 :: d2 :: d3 :: d4 :: r).length / 4 = r.length / 4 + 1 := by simp only [List.length_cons]; omega
    have hstep : nibbleBlock (d1 :: d2 :: d3 :: d4 :: r) xp ∘ Nat.succ = nibbleBlock r xp :=
      funext (nibbleBlock_succ d1 d2 d3 d4 r xp)
    rw [hdiv, List.range_succ_eq_map, List.map_cons, List.map_map, hstep, List.flatten_cons]
    simp only [hamEncodeStream, hamEncodeStream_eq xp r hr]
    rfl

/-! ### The decoder and the check -/

/-- The worst status of a list of blocks (41_hamming.md R142). -/
def worstStatus (ds : List DecodeStatus) : DecodeStatus := ds.foldr DecodeStatus.worse .clean

theorem worstStatus_eq_uncorrectable {ds : List DecodeStatus} :
    worstStatus ds = .uncorrectable ↔ .uncorrectable ∈ ds := by
  induction ds with
  | nil => simp [worstStatus]
  | cons d ds ih =>
    rw [List.mem_cons, ← ih, eq_comm (a := DecodeStatus.uncorrectable)]
    exact worse_eq_uncorrectable ..

theorem worstStatus_eq_clean {ds : List DecodeStatus} : worstStatus ds = .clean ↔ ∀ d ∈ ds, d = .clean := by
  induction ds with
  | nil => simp [worstStatus]
  | cons d ds ih =>
    rw [List.forall_mem_cons, ← ih]
    exact worse_eq_clean ..

theorem worstStatus_eq_corrected {ds : List DecodeStatus} (h : .corrected ∈ ds) (hu : .uncorrectable ∉ ds) :
    worstStatus ds = .corrected := by
  cases hw : worstStatus ds with
  | clean => cases worstStatus_eq_clean.1 hw _ h
  | corrected => rfl
  | uncorrectable => exact absurd (worstStatus_eq_uncorrectable.1 hw) hu

/-- The data of the first N received blocks, in order. -/
def streamData (y : Bits) (xp : Bool) (N : Nat) : Bits :=
  ((List.range N).map fun m => (hamDecode (chunk (7 + xp.toNat) y m) xp).data).flatten

/-- The statuses of the first N received blocks, in order. -/
def streamStatuses (y : Bits) (xp : Bool) (N : Nat) : List DecodeStatus :=
  (List.range N).map fun m => (hamDecode (chunk (7 + xp.toNat) y m) xp).dst

theorem mem_streamStatuses {y : Bits} {xp : Bool} {N : Nat} {d : DecodeStatus} :
    d ∈ streamStatuses y xp N ↔ ∃ m, m < N ∧ (hamDecode (chunk (7 + xp.toNat) y m) xp).dst = d := by
  simp [streamStatuses]

theorem forall_mem_streamStatuses {y : Bits} {xp : Bool} {N : Nat} {p : DecodeStatus → Prop} :
    (∀ d ∈ streamStatuses y xp N, p d) ↔ ∀ m, m < N → p (hamDecode (chunk (7 + xp.toNat) y m) xp).dst := by
  simp [streamStatuses]

theorem hamStreams_partial {y : Bits} {xp : Bool} (h : y.length % (7 + xp.toNat) ≠ 0) :
    hamDecodeStream y xp = none ∧ hamCheckStream y xp = none := by
  simp [hamDecodeStream, hamCheckStream, blocksOf_eq, h]

theorem hamDecodeStream_eq {y : Bits} {xp : Bool} (h : y.length % (7 + xp.toNat) = 0) :
    hamDecodeStream y xp = some (streamData y xp (y.length / (7 + xp.toNat)),
      worstStatus (streamStatuses y xp (y.length / (7 + xp.toNat)))) := by
  simp [hamDecodeStream, blocksOf_eq, h, streamData, streamStatuses, worstStatus, chunk, Function.comp_def]

theorem hamCheckStream_eq {y : Bits} {xp : Bool} (h : y.length % (7 + xp.toNat) = 0) :
    hamCheckStream y xp =
      some ((List.range (y.length / (7 + xp.toNat))).any fun m => hamCheck (chunk (7 + xp.toNat) y m) xp) := by
  simp [hamCheckStream, blocksOf_eq, h, chunk, List.any_map, Function.comp_def]

/-- A stream whose blocks decode to the nibbles of x decodes to x, with the worst of their statuses. -/
theorem hamDecodeStream_of_blocks {x y : Bits} {xp : Bool} {N : Nat} (hx : x.length = 4 * N)
    (hy : y.length = (7 + xp.toNat) * N)
    (h : ∀ m, m < N → (hamDecode (chunk (7 + xp.toNat) y m) xp).data = chunk 4 x m) :
    hamDecodeStream y xp = some (x, worstStatus (streamStatuses y xp N)) := by
  have hN : y.length / (7 + xp.toNat) = N := by rw [hy, Nat.mul_div_cancel_left _ (by omega)]
  have hdata : streamData y xp N = x :=
    (congrArg List.flatten (List.map_congr_left fun m hm => h m (List.mem_range.1 hm))).trans (flatten_chunks hx)
  rw [hamDecodeStream_eq (by rw [hy, Nat.mul_mod_right]), hN, hdata]

/-! ### At most one flip in each block (41_hamming.md R144) -/

/-- Block m of y is that of x's m-th nibble, or that with one position flipped. -/
def AtMostOneFlip (x y : Bits) (xp : Bool) (m : Nat) : Prop :=
  chunk (7 + xp.toNat) y m = nibbleBlock x xp m ∨
    ∃ i, 1 ≤ i ∧ i ≤ 7 + xp.toNat ∧ chunk (7 + xp.toNat) y m = flipAt (nibbleBlock x xp m) i

theorem AtMostOneFlip.hamDecode {x y : Bits} {xp : Bool} {m : Nat} (h : AtMostOneFlip x y xp m) :
    (hamDecode (chunk (7 + xp.toNat) y m) xp).data = strip (nibbleBlock x xp m) ∧
      (hamDecode (chunk (7 + xp.toNat) y m) xp).dst =
        if chunk (7 + xp.toNat) y m = nibbleBlock x xp m then .clean else .corrected := by
  have hlen := nibbleBlock_length x xp m
  have hcode : hamCheck (nibbleBlock x xp m) xp = false := hamCheck_hamEncodeNibble ..
  rcases h with h | ⟨i, hi1, hi, h⟩
  · rw [h, hamDecode_codeword hlen hcode, if_pos rfl]
    exact ⟨rfl, rfl⟩
  · rw [h, if_neg (flipAt_ne hi1 (by omega))]
    exact hamDecode_flip_codeword hlen hcode hi1 hi

/-- A received string with at most one flip in each block of x's encoding y decodes to x. -/
theorem hamDecodeStream_of_flips {x y y' : Bits} {xp : Bool} {N : Nat} (hx : x.length = 4 * N)
    (hy : y.length = (7 + xp.toNat) * N) (hblock : ∀ m, m < N → chunk (7 + xp.toNat) y m = nibbleBlock x xp m)
    (hy' : y'.length = (7 + xp.toNat) * N) (h : ∀ m, m < N → AtMostOneFlip x y' xp m) :
    hamDecodeStream y' xp = some (x, if y' = y then .clean else .corrected) := by
  have hN : x.length / 4 = N := by omega
  rw [hamDecodeStream_of_blocks hx hy' fun m hm =>
    (h m hm).hamDecode.1.trans (strip_nibbleBlock xp (by omega))]
  congr 2
  split
  next heq =>
    subst heq
    refine worstStatus_eq_clean.2 (forall_mem_streamStatuses.2 fun m hm => ?_)
    rw [(h m hm).hamDecode.2, if_pos (hblock m hm)]
  next hne =>
    obtain ⟨m, hm, hdiff⟩ : ∃ m, m < N ∧ chunk (7 + xp.toNat) y' m ≠ chunk (7 + xp.toNat) y m := by
      by_contra hall
      push Not at hall
      exact hne (eq_of_chunks hy' hy hall)
    refine worstStatus_eq_corrected (mem_streamStatuses.2 ⟨m, hm, ?_⟩) fun hu => ?_
    · rw [(h m hm).hamDecode.2, if_neg (hblock m hm ▸ hdiff)]
    · obtain ⟨j, hj, hdst⟩ := mem_streamStatuses.1 hu
      rw [(h j hj).hamDecode.2] at hdst
      split at hdst <;> cases hdst

end Sys2Proof.Machine

/-! SUPPORT. The obligation on the streams of the codec (41_hamming.md section 5). -/

namespace Sys2Proof.Machine

/-- Settles O40: the streams block by block; a flip in a block is a flip in a codeword. -/
theorem streamRoundTripsWithOneFlipPerBlock : Obligations.StreamRoundTripsWithOneFlipPerBlock := by
  intro xp n blockAt decoded
  refine ⟨fun x => hamEncodeStream_partial x xp, fun x hx => ?_, fun y => hamStreams_partial, fun y hy => ?_⟩
  · have hx4 : x.length = 4 * (x.length / 4) := by omega
    have hlen := length_flatten_map_range (x.length / 4) (nibbleBlock_length x xp)
    have hblock : ∀ m, m < x.length / 4 → blockAt _ m = nibbleBlock x xp m :=
      fun m => chunk_flatten_map_range (nibbleBlock_length x xp)
    refine ⟨_, hamEncodeStream_eq xp x hx, hlen.trans (Nat.mul_comm ..), hblock, ?_, fun y' hy' h => ?_⟩
    · exact (hamDecodeStream_of_flips hx4 hlen hblock hlen fun m hm => .inl (hblock m hm)).trans (by rw [if_pos rfl])
    · refine hamDecodeStream_of_flips hx4 hlen hblock (hy'.trans hlen) fun m hm => ?_
      have hm' := h m hm
      rwa [hblock m hm] at hm'
  · refine ⟨⟨_, hamCheckStream_eq hy, by simp [chunk, blockAt, n]⟩, _, _, hamDecodeStream_eq hy, ?_, ?_, ?_, ?_⟩
    · exact length_flatten_map_range _ fun m => hamDecode_data_length ..
    · exact fun m => chunk_flatten_map_range fun m => hamDecode_data_length ..
    · exact worstStatus_eq_uncorrectable.trans mem_streamStatuses
    · exact worstStatus_eq_clean.trans forall_mem_streamStatuses

end Sys2Proof.Machine

/-! SUPPORT. The payload byte by byte (42_frame.md R151, R152), and the modulator on a string in two parts
(43_modulator.md). -/

namespace Sys2Proof.Machine

/-! ### The payload -/

/-- The bit j of the m-th block is that at k * m + j of the string. -/
theorem getElem?_chunk {k j : Nat} (x : Bits) (m : Nat) (hj : j < k) : (chunk k x m)[j]? = x[k * m + j]? := by
  rw [chunk, List.getElem?_take_of_lt hj, List.getElem?_drop]

theorem chunk_rawBits {bytes : List Byte} {k : Nat} (h : k < bytes.length) :
    chunk 8 (rawBits bytes) k = bitsOf 8 bytes[k] :=
  (chunk_flatten (by simp) (by simpa using h)).trans (List.getElem_map _)

/-- What the encoder gives for a byte: the block of its high nibble, then that of its low nibble. -/
def byteBlocks (xp : Bool) (b : Byte) : Bits :=
  hamEncodeField (b.extractLsb' 4 4) xp ++ hamEncodeField (b.extractLsb' 0 4) xp

theorem byteBlocks_length (xp : Bool) (b : Byte) : (byteBlocks xp b).length = 2 * (7 + xp.toNat) := by
  rw [byteBlocks, List.length_append, hamEncodeField_length, hamEncodeField_length, Nat.two_mul]

theorem hamEncodeStream_bitsOf_append (b : Byte) (xp : Bool) {x y : Bits} (h : hamEncodeStream x xp = some y) :
    hamEncodeStream (bitsOf 8 b ++ x) xp = some (byteBlocks xp b ++ y) := by
  have hbits : bitsOf 8 b = [b.getLsbD 7, b.getLsbD 6, b.getLsbD 5, b.getLsbD 4,
      b.getLsbD 3, b.getLsbD 2, b.getLsbD 1, b.getLsbD 0] := rfl
  simp [hbits, hamEncodeStream, h, byteBlocks, hamEncodeField]

theorem hamEncodeStream_rawBits (xp : Bool) : ∀ bytes : List Byte,
    hamEncodeStream (rawBits bytes) xp = some (bytes.map (byteBlocks xp)).flatten
  | [] => rfl
  | b :: bytes => hamEncodeStream_bitsOf_append b xp (hamEncodeStream_rawBits xp bytes)

theorem payloadBits_coded (bytes : List Byte) (xp : Bool) :
    payloadBits bytes true xp = (bytes.map (byteBlocks xp)).flatten := by
  rw [payloadBits, if_pos rfl, hamEncodeStream_rawBits, Option.getD_some]

theorem chunk_payloadBits_coded {bytes : List Byte} {k : Nat} (xp : Bool) (h : k < bytes.length) :
    chunk (2 * (7 + xp.toNat)) (payloadBits bytes true xp) k = byteBlocks xp bytes[k] := by
  rw [payloadBits_coded]
  exact (chunk_flatten (by simp [byteBlocks_length]) (by simpa using h)).trans (List.getElem_map _)

/-! ### The modulator on a string in two parts, the first of even length -/

theorem clockBit_add_even {n : Nat} (k : Nat) (h : n % 2 = 0) : clockBit (k + n) = clockBit k := by
  rw [clockBit, clockBit, show (k + n) % 2 = k % 2 by omega]

theorem padEven_append {x : Bits} (y : Bits) (h : x.length % 2 = 0) : padEven (x ++ y) = x ++ padEven y := by
  have hlen : (x ++ y).length % 2 = y.length % 2 := by rw [List.length_append]; omega
  rw [padEven, padEven, hlen]
  split
  · exact List.append_assoc ..
  · rfl

theorem groupLevels_append : ∀ (x y : Bits), x.length % 2 = 0 → groupLevels (x ++ y) = groupLevels x ++ groupLevels y
  | [], _, _ => rfl
  | [_], _, h => by simp at h
  | hi :: lo :: x, y, h => by
    have hx : x.length % 2 = 0 := by simp only [List.length_cons] at h; omega
    exact congrArg (_ :: ·) (groupLevels_append x y hx)

theorem modulate_append (m : Mode) {x : Bits} (y : Bits) (h : x.length % 2 = 0) :
    modulate m (x ++ y) = modulate m x ++ modulate m y := by
  cases m with
  | basic => exact List.map_append
  | clockInterleaved => simp only [modulate, List.mapIdx_append, clockBit_add_even _ h]
  | brightness2bit =>
    have hx : padEven x = x := if_neg (by omega)
    rw [modulate, modulate, modulate, padEven_append y h, groupLevels_append x _ h, hx]
  | brightnessWithClock => simp only [modulate, List.mapIdx_append, clockBit_add_even _ h]

/-- The levels of a frame end with those of the reset bit alone: all that is before it has an even length
(42_frame.md R157). -/
theorem modulate_frameBits (m : Mode) (bytes : List Byte) (hamEn xparEn : Bool) :
    modulate m (frameBits bytes hamEn xparEn) =
      modulate m (startMarker ++ payloadBits bytes hamEn xparEn ++ stopMarker) ++ modulate m resetBit := by
  refine modulate_append m resetBit ?_
  have hw : payloadWidth bytes.length hamEn xparEn % 2 = 0 := by rw [payloadWidth]; split_ifs <;> omega
  simp only [List.length_append, payloadBits_length, startMarker, stopMarker, List.length_cons, List.length_nil]
  omega

theorem getLast?_modulate_frameBits {m : Mode} {l : Level} {bytes : List Byte} {hamEn xparEn : Bool}
    (h : modulate m resetBit = [l]) : (modulate m (frameBits bytes hamEn xparEn)).getLast? = some l := by
  rw [modulate_frameBits, h, List.getLast?_concat]

end Sys2Proof.Machine

/-! SUPPORT. The obligations on the payload's order and on the last level (42_frame.md). -/

namespace Sys2Proof.Machine

/-- Settles O42: both streams are one block for each byte, of its bits or of its two codewords. -/
theorem payloadOrderInTheFrame : Obligations.PayloadOrderInTheFrame := by
  intro bytes xparEn
  have hcoded : some (payloadBits bytes true xparEn) = hamEncodeStream (rawBits bytes) xparEn := by
    rw [payloadBits_coded, hamEncodeStream_rawBits]
  refine ⟨rawBits_length bytes, rfl, hcoded, fun k hk => ⟨fun j hj => ?_, chunk_payloadBits_coded xparEn hk⟩⟩
  have hj' : j < (bitsOf 8 bytes[k]).length := (bitsOf_length ..).symm ▸ hj
  rw [← getElem?_chunk _ k hj, chunk_rawBits hk, List.getElem?_eq_getElem hj', bitsOf_getElem,
    BitVec.getMsbD_eq_getLsbD, decide_eq_true hj, Bool.true_and]

/-- Settles O45: the levels end with those of the reset bit, one in each mode. -/
theorem lastLevelIsTheResetBits : Obligations.LastLevelIsTheResetBits := fun _ _ _ =>
  ⟨getLast?_modulate_frameBits rfl, getLast?_modulate_frameBits rfl, getLast?_modulate_frameBits rfl,
    getLast?_modulate_frameBits rfl⟩

end Sys2Proof.Machine

/-! SUPPORT. The levels of each mode by index (43_modulator.md R166 to R170), and the level count of a START (R172). -/

namespace Sys2Proof.Machine

/-! ### One level for each bit (43_modulator.md R166, R168, R170) -/

theorem getElem?_modulate_basic {x : Bits} {k : Nat} {b : Bool} (h : x[k]? = some b) :
    (modulate .basic x)[k]? = some ⟨binaryLevel b, false⟩ := by
  rw [modulate, List.getElem?_map, h, Option.map_some]

theorem getElem?_modulate_clockInterleaved {x : Bits} {k : Nat} {b : Bool} (h : x[k]? = some b) :
    (modulate .clockInterleaved x)[k]? = some ⟨binaryLevel b, clockBit k⟩ := by
  rw [modulate, List.getElem?_mapIdx, h, Option.map_some]

theorem getElem?_modulate_brightnessWithClock {x : Bits} {k : Nat} {b : Bool} (h : x[k]? = some b) :
    (modulate .brightnessWithClock x)[k]? = some ⟨groupLevel (clockBit k) b, clockBit k⟩ := by
  rw [modulate, List.getElem?_mapIdx, h, Option.map_some]

theorem clockBit_toNat (k : Nat) : (clockBit k).toNat = k % 2 := by
  rcases Nat.mod_two_eq_zero_or_one k with h | h <;> simp [clockBit, h]

/-! ### One level for each group of two bits (43_modulator.md R169) -/

theorem getElem?_groupLevels : ∀ (y : Bits) (m : Nat), 2 * m + 1 < y.length →
    (groupLevels y)[m]? = some ⟨groupLevel (y.getD (2 * m) true) (y.getD (2 * m + 1) true), false⟩
  | [], _, h => absurd h (Nat.not_lt_zero _)
  | [_], m, h => by simp at h
  | _ :: _ :: _, 0, _ => rfl
  | hi :: lo :: y, m + 1, h => by
    have hm : 2 * m + 1 < y.length := by simp only [List.length_cons] at h; omega
    exact getElem?_groupLevels y m hm

/-- The pad is the bit that a position past the end reads as. -/
theorem getD_padEven (x : Bits) (i : Nat) : (padEven x).getD i true = x.getD i true := by
  rw [padEven]
  split
  · rcases Nat.lt_or_ge i x.length with hi | hi
    · exact List.getD_append _ _ _ _ hi
    · rw [List.getD_append_right _ _ _ _ hi, List.getD_eq_default _ _ hi]
      cases i - x.length <;> rfl
  · rfl

theorem getElem?_modulate_brightness2bit {x : Bits} {m : Nat} (h : m < (x.length + 1) / 2) :
    (modulate .brightness2bit x)[m]? = some ⟨groupLevel (x.getD (2 * m) true) (x.getD (2 * m + 1) true), false⟩ := by
  have hm : 2 * m + 1 < (padEven x).length := by rw [padEven_length]; omega
  rw [modulate, getElem?_groupLevels _ m hm, getD_padEven, getD_padEven]

/-! ### The level count of a START (43_modulator.md R172) -/

theorem State.mode_eq_brightness2bit_iff (s : State) : s.mode = .brightness2bit ↔ s.modeField = 2 := by
  have h : ∀ f : BitVec 3, (Mode.ofField f).getD .basic = .brightness2bit ↔ f = 2 := by decide
  exact h s.modeField

theorem modulate_mode_length (s : State) (x : Bits) :
    (modulate s.mode x).length = if s.modeField = 2 then (x.length + 1) / 2 else x.length := by
  rw [modulate_length, ← if_congr s.mode_eq_brightness2bit_iff rfl rfl]
  cases s.mode <;> rfl

end Sys2Proof.Machine

/-! SUPPORT. The obligations on the modulator and on what START computes (43_modulator.md). -/

namespace Sys2Proof.Machine

/-- Settles O15: the plan's length is the mode's count of the frame's bits, and both counts fit their registers. -/
theorem startSetsTotalAndPeriod : Obligations.StartSetsTotalAndPeriod := by
  intro s t hp hs ht w
  rw [exec_start, execStart_startable hs] at ht
  obtain rfl := Host.Outcome.next.inj ht
  have htotal := planLevels_total hp hs s.mode
  have hperiod := nominalPeriod_toNat hp
  have hcount : (s.planLevels s.mode).length = if s.modeField = 2 then (w + 17 + 1) / 2 else w + 17 := by
    rw [State.planLevels, modulate_mode_length, frameBits_length, payloadBytes_length, payloadWidth]
  exact ⟨htotal.trans hcount, htotal.symm, hperiod, hperiod.symm ▸ nominalPeriod_pos hs⟩

/-- Settles O43: each of the three modes maps a bit and its index to a level. -/
theorem oneBitModesByIndex : Obligations.OneBitModesByIndex := by
  intro x
  refine ⟨modulate_length .basic x, modulate_length .clockInterleaved x, modulate_length .brightnessWithClock x,
    fun k b hb => ⟨getElem?_modulate_basic hb, getElem?_modulate_clockInterleaved hb, ?_⟩⟩
  rw [getElem?_modulate_brightnessWithClock hb, groupLevel, clockBit_toNat, clockBit]

/-- Settles O44: the groups are those of the padded string, which has the bits of the string and 1 past its end. -/
theorem brightnessTwoBitByIndex : Obligations.BrightnessTwoBitByIndex := fun x =>
  ⟨modulate_length .brightness2bit x, fun _ hm => getElem?_modulate_brightness2bit hm⟩

end Sys2Proof.Machine

/-! SUPPORT. What a tick's host access does to the transmission, and the checks of START (44_scheduler.md sections 1, 2
and 4). -/

namespace Sys2Proof.Machine

/-! ### The checks of START (44_scheduler.md R186) -/

theorem exec_start_of_rejected {s : State} {e : ErrCode} (h : startCheck s = .rejected e) :
    exec .start s = .next (s.setErr e) := by
  rw [exec_start, execStart, h]; rfl

theorem startCheck_of_running {s : State} (hr : s.sched = .running) :
    startCheck s = .rejected .transmissionInProgress := if_pos hr

theorem Mode.ofField_eq_none {m : BitVec 3} (h : 4 ≤ m.toNat) : Mode.ofField m = none := by
  rw [← Option.not_isSome_iff_eq_none, Mode.ofField_isSome]
  omega

theorem startCheck_of_badMode {s : State} (hr : s.sched ≠ .running) (hm : 4 ≤ s.modeField.toNat) :
    startCheck s = .rejected .invalidConfig := by
  rw [startCheck, if_neg hr, Mode.ofField_eq_none hm]

/-- A BPS that gives no period fails the third check where MODE does not already fail the second, with one code. -/
theorem startCheck_of_noPeriod {s : State} (hr : s.sched ≠ .running) (hb : s.bps = 0 ∨ s.nominalPeriod = 0) :
    startCheck s = .rejected .invalidConfig := by
  rw [startCheck, if_neg hr]
  cases Mode.ofField s.modeField with
  | none => rfl
  | some m => exact if_pos hb

theorem startCheck_of_badLen {s : State} (hr : s.sched ≠ .running) (hm : s.modeField.toNat ≤ 3) (hb : s.bps ≠ 0)
    (hp : s.nominalPeriod ≠ 0) (hl : s.params.nBuf < s.len.toNat) : startCheck s = .rejected .invalidInput := by
  obtain ⟨m, hmode⟩ := Option.isSome_iff_exists.1 ((Mode.ofField_isSome s.modeField).2 hm)
  rw [startCheck, if_neg hr, hmode]
  exact (if_neg (not_or.2 ⟨hb, hp⟩)).trans (if_pos hl)

/-! ### CANCEL (44_scheduler.md R200) -/

theorem exec_cancel_running {s : State} (h : s.sched = .running) :
    exec .cancel s = .next (s.cancelTransmission.setErr .ok) := if_pos h

theorem exec_cancel_notRunning {s : State} (h : s.sched ≠ .running) : exec .cancel s = .next (s.setErr .ok) := if_neg h

/-! ### The access of a tick, by what it does to the transmission -/

/-- `s` with the values that `x` has where an access writes without beginning or ending a transmission: ERR, CONFIG, BPS,
LEN, PAYLOAD, CODEC_RES and the result of a read. -/
def State.withRegsOf (s x : State) : State :=
  { s with
    err := x.err, config := x.config, bps := x.bps, len := x.len, payload := x.payload
    codecRes := x.codecRes, hrdata := x.hrdata }

/-- The state after the access of a tick that is an accepted START (44_scheduler.md R187). -/
def State.begun (s : State) : State :=
  (s.takeInputs.beginTransmission (s.planLevels s.mode) (BitVec.ofNat 32 s.nominalPeriod)).setErr .ok

/-- The tick's access is a CANCEL (44_scheduler.md R200). -/
def State.Cancels (s : State) : Prop := ∃ i, s.fetch = some i ∧ i.performed = .cancel

/-- What a tick's access does to the transmission: it begins one, ends one, or touches none of it. -/
inductive State.TickEffect (s : State) : State → Prop
  | start : s.Starts → TickEffect s s.begun
  | cancel : s.Cancels → s.sched = .running → TickEffect s (s.takeInputs.cancelTransmission.setErr .ok)
  | other (x : State) : TickEffect s (s.takeInputs.withRegsOf x)

theorem exec_begun {s : State} {i : Instr} (hp : i.performed = .start) (hs : s.Startable) :
    exec i s.takeInputs = .next s.begun := by
  rw [exec_performed, hp, exec_start, execStart_startable (startable_takeInputs.2 hs)]
  rfl

theorem State.Accessed.tickEffect {s a : State} (h : s.Accessed a) : s.TickEffect a := by
  rcases h with ⟨-, rfl⟩ | ⟨i, hf, he⟩
  · exact .other s.takeInputs
  · cases exec_effect he with
    | start hp hx =>
      rcases execStart_cases hx with ⟨hs, rfl⟩ | ⟨-, e, -, -, rfl⟩
      · exact .start ⟨i, hf, hp, startable_takeInputs.1 hs⟩
      · exact .other (s.takeInputs.setErr e)
    | cancel hp hx =>
      rcases execCancel_cases hx with ⟨hr, rfl⟩ | ⟨-, rfl⟩
      · exact .cancel ⟨i, hf, hp⟩ hr
      · exact .other (s.takeInputs.setErr .ok)
    | codec v e _ => exact .other ((s.takeInputs.setCodecRes v).setErr e)
    | host e c b l p r =>
      exact .other { s.takeInputs with err := e, config := c, bps := b, len := l, payload := p, hrdata := r }

theorem step_start {s : State} {i : Instr} (hord : s.Ordinary) (hs : s.Startable) (hf : s.fetch = some i)
    (hp : i.performed = .start) : step s = endTick s.sinkIn s.begun :=
  step_access hord hf (exec_begun hp hs)

/-- A CANCEL leaves the engine step of its own tick nothing to offer. -/
theorem step_cancel {s : State} {i : Instr} (hord : s.Ordinary) (hr : s.sched = .running) (hf : s.fetch = some i)
    (hp : i.performed = .cancel) :
    step s = .next (s.takeInputs.cancelTransmission.setErr .ok).quietPorts.advanceNow := by
  have he : exec i s.takeInputs = .next (s.takeInputs.cancelTransmission.setErr .ok) := by
    rw [exec_performed, hp]
    exact exec_cancel_running hr
  have hr' : (s.takeInputs.cancelTransmission.setErr .ok).sched ≠ .running := nofun
  rw [step_access hord hf he, endTick, engineStep_notRunning hr']

/-! ### Where an accepted START's engine step begins -/

theorem State.begun_offering (s : State) : s.begun.Offering := ⟨rfl, .inl rfl⟩

/-- An accepted START has a first level to offer (44_scheduler.md R193). -/
theorem State.exists_firstLevel {s : State} (hp : s.params.Legal) (hs : s.Startable) :
    ∃ l, (s.planLevels s.mode)[0]? = some l :=
  ⟨_, List.getElem?_eq_getElem (Nat.lt_of_lt_of_le (by decide) (planLevels_length_bounds hp hs s.mode).1)⟩

theorem State.begun_period {s : State} (hp : s.params.Legal) : s.begun.period.toNat = s.nominalPeriod :=
  nominalPeriod_toNat hp

theorem State.begun_compensatedDelay {s : State} (hp : s.params.Legal) :
    s.begun.compensatedDelay = s.nominalPeriod :=
  (State.compensatedDelay_first rfl).trans (State.begun_period hp)

theorem endTick_offer {k : SinkIn} {s : State} {l : Level} (h : s.Offering) (hl : s.levels[s.index.toNat]? = some l)
    (hk : k.evReady = false) : endTick k s = .next (s.offerLevel l).advanceNow := by
  rw [endTick, engineStep_offer h hl hk]

theorem endTick_emit {k : SinkIn} {s : State} {l : Level} (h : s.Offering) (hl : s.levels[s.index.toNat]? = some l)
    (hk : k.evReady = true) : endTick k s = .next (s.emitLevel l k.sinkErr s.compensatedDelay).advanceNow := by
  rw [endTick, engineStep_emit h hl hk]

/-! ### The transitions of STATE -/

/-- The engine step changes STATE only where it completes the transmission (44_scheduler.md R197). -/
theorem engineStep_sched_cases {k : SinkIn} {s t : State} (h : engineStep k s = .next t) :
    (s.Completing ∧ t.sched = .done) ∨ (¬ s.Completing ∧ t.sched = s.sched) := by
  by_cases hc : s.Completing
  · rw [engineStep_completing hc] at h
    cases h
    exact .inl ⟨hc, rfl⟩
  · refine .inr ⟨hc, ?_⟩
    rcases engineStep_cases h with ⟨-, rfl⟩ | ⟨-, rfl⟩ | ⟨hs, -⟩ | ⟨_, -, -, -, rfl⟩ | ⟨_, -, -, -, rfl⟩
    · rfl
    · rfl
    · exact absurd hs hc
    · rfl
    · rfl

/-- An accepted START makes STATE Running, a CANCEL while Running and completion make it Done, and nothing else in a tick
changes it (44_scheduler.md R180). -/
theorem step_sched_cases {s t : State} (hord : s.Ordinary) (h : step s = .next t) :
    (s.Starts ∧ t.sched = .running) ∨ (s.sched = .running ∧ (s.Cancels ∨ s.Completing) ∧ t.sched = .done) ∨
      t.sched = s.sched := by
  obtain ⟨-, a, v, ha, he, rfl⟩ := step_next_ordinary h hord.1
  rw [State.advanceNow_sched]
  have hengine := engineStep_sched_cases he
  cases ha.tickEffect with
  | start hs =>
    rcases hengine with ⟨⟨-, hphase, -⟩, -⟩ | ⟨-, hv⟩
    · cases hphase
    · exact .inl ⟨hs, hv⟩
  | cancel hc hr =>
    rcases hengine with ⟨⟨hdone, -⟩, -⟩ | ⟨-, hv⟩
    · cases hdone
    · exact .inr (.inl ⟨hr, .inl hc, hv⟩)
  | other x =>
    rcases hengine with ⟨hc, hv⟩ | ⟨-, hv⟩
    · exact .inr (.inl ⟨hc.1, .inr hc, hv⟩)
    · exact .inr (.inr hv)

/-! ### What an emission writes -/

/-- What an emission made of the level it offers. -/
theorem engineStep_emission {e : Bool} {s t : State} (ho : s.Offering)
    (h : engineStep { evReady := true, sinkErr := e } s = .next t) :
    ∃ l, t = s.emitLevel l e s.compensatedDelay := by
  cases hl : s.levels[s.index.toNat]? with
  | none => simp [engineStep_offering ho, hl] at h
  | some l =>
    rw [engineStep_emit ho hl rfl] at h
    exact ⟨l, (Host.Outcome.next.inj h).symm⟩

theorem State.or_evFire_of_noFire {s : State} (h : s.evFire = false) :
    { s with sinkErr := s.sinkErr || s.evFire } = s := by
  have hb : (s.sinkErr || s.evFire) = s.sinkErr := by rw [h, Bool.or_false]
  rw [hb]

/-- Setting SINK_ERR after an emission is `sink_err` = 1 at the emission (44_scheduler.md R202). -/
theorem State.emitLevel_or_evFire (s : State) (l : Level) (b : Bool) (d : Nat) :
    { s.emitLevel l b d with sinkErr := (s.emitLevel l b d).sinkErr || (s.emitLevel l b d).evFire } =
      s.emitLevel l true d := by
  simp [State.emitLevel]

/-- The DUE of an emission that is not the first (44_scheduler.md R194 to R196). -/
theorem emission_due_later {e : Bool} {s t : State} (ho : s.Offering) (hn : s.now < 2 ^ 64) (hl : s.haveLast = true)
    (hle : s.last ≤ s.now) (h : engineStep { evReady := true, sinkErr := e } s = .next t) :
    t.due = s.now + max (2 * s.period.toNat - (s.now - s.last)) 1 := by
  obtain ⟨l, rfl⟩ := engineStep_emission ho h
  rw [State.emitLevel_due, State.compensatedDelay_later hl, State.measuredGap_of_le hle hn]

end Sys2Proof.Machine

/-! SUPPORT. The obligations on START, CANCEL and the single engine step (44_scheduler.md). -/

namespace Sys2Proof.Machine

/-- Settles O13: none of the checks fails, and a PAYLOAD byte that was written reads as written. -/
theorem startBeginsATransmission : Obligations.StartBeginsATransmission := by
  intro s hs
  have hmode : ∀ {f : BitVec 3}, s.modeField = f → s.mode = (Mode.ofField f).getD .basic := fun hf => hf ▸ rfl
  refine ⟨fun hf => hmode hf, fun hf => hmode hf, fun hf => hmode hf, fun hf => hmode hf, payloadBytes_length s,
    fun k hk => payloadBytes_getElem? hk, fun k v hv => readPayload_of_written hv, ?_⟩
  exact (exec_start s).trans (execStart_startable hs)

/-- Settles O14, check by check. -/
theorem startRejectsByTheFirstFailingCheck : Obligations.StartRejectsByTheFirstFailingCheck := fun _ =>
  ⟨fun hr => exec_start_of_rejected (startCheck_of_running hr),
    fun hr hm => exec_start_of_rejected (startCheck_of_badMode hr hm),
    fun hr _ hb => exec_start_of_rejected (startCheck_of_noPeriod hr hb),
    fun hr hm hb hp hl => exec_start_of_rejected (startCheck_of_badLen hr hm hb hp hl)⟩

/-- Settles O27: a START begins a transmission or changes ERR. -/
theorem frameOfStart : Obligations.FrameOfStart := by
  intro s t h
  rw [exec_start] at h
  rcases execStart_cases h with ⟨-, rfl⟩ | ⟨-, e, -, -, rfl⟩
  · exact ⟨rfl, fun _ => rfl⟩
  · exact ⟨rfl, fun _ => rfl⟩

/-- Settles O33: in a tick STATE is set to Running, set to Done while Running, or kept. -/
theorem stateTransitionsAreTheListedOnes : Obligations.StateTransitionsAreTheListedOnes := by
  intro s t hord h
  rcases step_sched_cases hord h with ⟨hs, ht⟩ | ⟨hr, hcause, ht⟩ | ht
  · obtain ⟨i, hf, hp, hstartable⟩ := hs
    exact ⟨by simp [ht], by simp [ht], fun _ _ => ⟨i, hf, hp, hstartable⟩, fun hr => absurd hr hstartable.notRunning⟩
  · exact ⟨by simp [ht], by simp [hr], fun hn => absurd hr hn, fun _ _ => ⟨ht, hcause⟩⟩
  · rw [ht]
    exact ⟨id, fun hi hd => (by simp [hi] at hd), fun hn hr => absurd hr hn, fun hr hn => absurd hr hn⟩

/-- Settles O47. -/
theorem emissionWritesTheOfferedLevel : Obligations.EmissionWritesTheOfferedLevel := fun _ _ _ ho hl =>
  ⟨_, engineStep_emit ho hl rfl, rfl⟩

/-- Settles O49: the gap is NOW - LAST where LAST is not after NOW. -/
theorem compensatedDelay : Obligations.CompensatedDelay := by
  intro s t e ho hn h
  refine ⟨fun hl => ?_, fun hl hle => ?_⟩
  · obtain ⟨l, rfl⟩ := engineStep_emission ho h
    rw [State.emitLevel_due, State.compensatedDelay_first hl]
  · have hdue := emission_due_later ho hn hl hle h
    omega

/-- Settles O50, by the cases of the engine step: only an emission looks at `sink_err`. -/
theorem sinkErrorsAreNotFatal : Obligations.SinkErrorsAreNotFatal := by
  intro s t r h
  rcases engineStep_cases h with ⟨hs, rfl⟩ | ⟨hs, rfl⟩ | ⟨hs, rfl⟩ | ⟨l, hs, hl, hk, rfl⟩ | ⟨l, hs, hl, hk, rfl⟩
  · rw [State.or_evFire_of_noFire rfl]; exact engineStep_notRunning hs
  · rw [State.or_evFire_of_noFire rfl]; exact engineStep_waiting hs
  · rw [State.or_evFire_of_noFire rfl]; exact engineStep_completing hs
  · rw [State.or_evFire_of_noFire rfl]; exact engineStep_offer hs hl hk
  · rw [State.emitLevel_or_evFire]; exact engineStep_emit hs hl hk

/-- Settles O51: after the CANCEL the engine is not Running. -/
theorem cancelTickEmitsNothing : Obligations.CancelTickEmitsNothing := fun _ _ hord hr hf hp =>
  ⟨_, step_cancel hord hr hf hp, rfl, rfl, rfl, rfl, rfl, rfl, rfl, rfl, rfl⟩

/-- Settles O52: the engine step of the START tick offers the first level, and the delay after it is P. -/
theorem firstLevelIsOfferedInTheStartTick : Obligations.FirstLevelIsOfferedInTheStartTick := by
  intro s i hord hp hs hf hi
  obtain ⟨l, hl⟩ := State.exists_firstLevel hp hs
  have hstep := step_start hord hs hf hi
  have hoffer := s.begun_offering
  cases hk : s.sinkIn.evReady with
  | false =>
    exact ⟨_, l, hstep.trans (endTick_offer hoffer hl hk), hl, rfl, rfl, rfl, rfl, rfl, nofun, fun _ => ⟨rfl, rfl, rfl⟩⟩
  | true =>
    refine ⟨_, l, hstep.trans (endTick_emit hoffer hl hk), hl, rfl, rfl, rfl, rfl, rfl,
      fun _ => ⟨rfl, rfl, rfl, rfl, ?_⟩, nofun⟩
    rw [State.begun_compensatedDelay hp, State.advanceNow_due, State.emitLevel_due, max_eq_left (nominalPeriod_pos hs)]
    rfl

/-- Settles O60: with a gap of at most 2P - 1 the delay is not clamped, with one of 2P or more it is the one tick. -/
theorem twoGapsSumToTwoPeriods : Obligations.TwoGapsSumToTwoPeriods := by
  intro s t e ho hn hl hle h
  have hdue := emission_due_later ho hn hl hle h
  omega

/-- Settles O12. -/
theorem cancelEndsARunningTransmission : Obligations.CancelEndsARunningTransmission := fun _ =>
  ⟨exec_cancel_running, exec_cancel_notRunning⟩

/-- Settles O46: the cases of the engine step without an offer. -/
theorem engineIsQuietWhenNotOffering : Obligations.EngineIsQuietWhenNotOffering := fun _ _ =>
  ⟨fun hs => hs.elim engineStep_notRunning engineStep_waiting, engineStep_completing⟩

/-- Settles O48. -/
theorem lateSinkLeavesTheOfferStanding : Obligations.LateSinkLeavesTheOfferStanding := fun _ _ _ ho hl =>
  engineStep_offer ho hl rfl

end Sys2Proof.Machine

/-! SUPPORT. Runs of several ticks: ticks that leave a transmission alone, the events of a transmission in order, and its
times where the sink is always ready (44_scheduler.md sections 3, 5 and 6). -/

namespace Sys2Proof.Machine

/-! ### The run and its events, from either end -/

theorem runEvents_head_iff {n : Nat} {s u : State} {es : List Event} :
    runEvents (n + 1) s = some (u, es) ↔
      ∃ t fs, step s = .next t ∧ runEvents n t = some (u, fs) ∧ es = t.event.toList ++ fs := by
  rw [runEvents]
  cases step s with
  | next t =>
    cases hr : runEvents n t with
    | none => simp [hr]
    | some r => obtain ⟨v, gs⟩ := r; simp [hr, eq_comm]
  | fault f => simp
  | refused r => simp

theorem runEvents_last_iff {n : Nat} {s u : State} {es : List Event} :
    runEvents (n + 1) s = some (u, es) ↔
      ∃ t fs, runEvents n s = some (t, fs) ∧ step t = .next u ∧ es = fs ++ u.event.toList := by
  induction n generalizing s es with
  | zero =>
    rw [runEvents_head_iff]
    constructor
    · rintro ⟨t, fs, ht, hr, rfl⟩
      cases hr
      exact ⟨s, [], rfl, ht, List.append_nil _⟩
    · rintro ⟨t, fs, hr, ht, rfl⟩
      cases hr
      exact ⟨u, [], ht, rfl, (List.append_nil _).symm⟩
  | succ n ih =>
    rw [runEvents_head_iff]
    constructor
    · rintro ⟨v, fs, hv, hr, rfl⟩
      obtain ⟨t, gs, ht, hu, rfl⟩ := ih.1 hr
      exact ⟨t, _, runEvents_head_iff.2 ⟨v, gs, hv, ht, rfl⟩, hu, (List.append_assoc ..).symm⟩
    · rintro ⟨t, fs, hr, hu, rfl⟩
      obtain ⟨v, gs, hv, ht, rfl⟩ := runEvents_head_iff.1 hr
      exact ⟨v, _, hv, ih.2 ⟨t, gs, ht, hu, rfl⟩, List.append_assoc ..⟩

/-! ### Ticks that leave a running transmission alone -/

/-- In each of the next `n` ticks the host makes no reset and no CANCEL, `ev_ready` is `r`, and NOW has room. -/
structure State.Undisturbed (s : State) (r : Bool) (n : Nat) : Prop where
  host : ∀ h ∈ s.host, h.LetsRun s.params.nBuf
  sink : ∀ k, k < n → ∃ e, s.sink[k]? = some { evReady := r, sinkErr := e }
  room : s.now + n < 2 ^ 64

/-- What a tick without reset does to the parameters, the coming inputs and NOW. -/
theorem step_inputs {s t : State} (hr : s.hostIn.rst = false) (h : step s = .next t) :
    t.params = s.params ∧ t.host = s.host.tail ∧ t.sink = s.sink.tail ∧ t.now = s.now + 1 := by
  obtain ⟨-, a, v, ha, he, rfl⟩ := step_next_ordinary h hr
  have haccess : a.params = s.params ∧ a.host = s.host.tail ∧ a.sink = s.sink.tail ∧ a.now = s.now := by
    cases ha.tickEffect <;> exact ⟨rfl, rfl, rfl, rfl⟩
  have hengine : v.params = a.params ∧ v.host = a.host ∧ v.sink = a.sink ∧ v.now = a.now := by
    rcases engineStep_cases he with ⟨-, rfl⟩ | ⟨-, rfl⟩ | ⟨-, rfl⟩ | ⟨_, -, -, -, rfl⟩ | ⟨_, -, -, -, rfl⟩ <;>
      exact ⟨rfl, rfl, rfl, rfl⟩
  obtain ⟨hparams, hhost, hsink, hnow⟩ := hengine
  obtain ⟨hparams', hhost', hsink', hnow'⟩ := haccess
  exact ⟨hparams.trans hparams', hhost.trans hhost', hsink.trans hsink', congrArg (· + 1) (hnow.trans hnow')⟩

theorem State.undisturbed_of_step {s t : State} {r : Bool} {n : Nat} (hr : s.hostIn.rst = false)
    (h : step s = .next t) (hhost : ∀ h ∈ s.host.tail, h.LetsRun s.params.nBuf)
    (hsink : ∀ k, k < n + 1 → ∃ e, s.sink[k]? = some { evReady := r, sinkErr := e }) (hroom : s.now + n + 1 < 2 ^ 64) :
    t.Undisturbed r n := by
  obtain ⟨hparams, hhost', hsink', hnow⟩ := step_inputs hr h
  refine ⟨by rwa [hparams, hhost'], fun k hk => ?_, by omega⟩
  rw [hsink', List.getElem?_tail]
  exact hsink (k + 1) (Nat.succ_lt_succ hk)

theorem State.sinkIn_of_getElem? {s : State} {k : SinkIn} (h : s.sink[0]? = some k) : s.sinkIn = k := by
  rw [State.sinkIn]
  cases hs : s.sink with
  | nil => simp [hs] at h
  | cons a r => simpa [hs] using h

theorem State.hostIn_letsRun {s : State} {n : Nat} (h : ∀ h ∈ s.host, h.LetsRun n) : s.hostIn.LetsRun n := by
  rw [State.hostIn]
  cases hs : s.host with
  | nil => exact ⟨rfl, nofun⟩
  | cons a r => exact h a (hs ▸ List.mem_cons_self)

theorem State.not_cancels_of_letsRun {s : State} (h : s.hostIn.LetsRun s.params.nBuf) : ¬ s.Cancels := by
  rintro ⟨i, hf, hp⟩
  cases hsel : s.hostIn.hsel with
  | false => simp [State.fetch, hsel] at hf
  | true =>
    have hi : decodeBus s.params.nBuf (busCode s.hostIn.hwrite s.hostIn.haddr) s.hostIn.hwdata = i := by
      simpa [State.fetch, hsel, decode] using hf
    exact h.2 hsel (hi ▸ hp)

theorem State.Undisturbed.hostIn {s : State} {r : Bool} {n : Nat} (h : s.Undisturbed r n) :
    s.hostIn.LetsRun s.params.nBuf := State.hostIn_letsRun h.host

section
variable {s : State} {r : Bool} {n : Nat} (h : s.Undisturbed r (n + 1))
include h

theorem State.Undisturbed.evReady : s.sinkIn.evReady = r := by
  obtain ⟨e, he⟩ := h.sink 0 (Nat.succ_pos n)
  rw [State.sinkIn_of_getElem? he]

theorem State.Undisturbed.ordinary : s.Ordinary := by
  have hroom := h.room
  exact ⟨h.hostIn.1, by omega⟩

theorem State.Undisturbed.next {t : State} (ht : step s = .next t) : t.Undisturbed r n :=
  State.undisturbed_of_step h.hostIn.1 ht (fun _ hm => h.host _ (List.mem_of_mem_tail hm)) h.sink h.room

/-- Such a tick is the engine's alone: the access leaves the transmission as it was (44_scheduler.md R188). -/
theorem State.Undisturbed.step_running (hr : s.sched = .running) :
    ∃ x, step s = endTick s.sinkIn (s.takeInputs.withRegsOf x) := by
  obtain ⟨a, ha, hstep⟩ := step_ordinary h.ordinary
  cases ha.tickEffect with
  | start hs =>
    obtain ⟨i, -, -, hstartable⟩ := hs
    exact absurd hr hstartable.notRunning
  | cancel hc => exact absurd hc (State.not_cancels_of_letsRun h.hostIn)
  | other x => exact ⟨x, hstep⟩

theorem State.Undisturbed.step_waiting (hw : s.Waiting) :
    ∃ x, step s = .next (s.takeInputs.withRegsOf x).quietPorts.advanceNow := by
  obtain ⟨x, hstep⟩ := h.step_running hw.1
  have hw' : (s.takeInputs.withRegsOf x).Waiting := hw
  exact ⟨x, by rw [hstep, endTick, engineStep_waiting hw']⟩

theorem State.Undisturbed.step_completing (hc : s.Completing) :
    ∃ x, step s = .next (s.takeInputs.withRegsOf x).quietPorts.finishTransmission.advanceNow := by
  obtain ⟨x, hstep⟩ := h.step_running hc.1
  have hc' : (s.takeInputs.withRegsOf x).Completing := hc
  exact ⟨x, by rw [hstep, endTick, engineStep_completing hc']⟩

theorem State.Undisturbed.step_offer {l : Level} (ho : s.Offering) (hl : s.levels[s.index.toNat]? = some l)
    (hb : r = false) : ∃ x, step s = .next ((s.takeInputs.withRegsOf x).offerLevel l).advanceNow := by
  obtain ⟨x, hstep⟩ := h.step_running ho.1
  exact ⟨x, hstep.trans (endTick_offer (s := s.takeInputs.withRegsOf x) ho hl (h.evReady.trans hb))⟩

theorem State.Undisturbed.step_emit {l : Level} (ho : s.Offering) (hl : s.levels[s.index.toNat]? = some l)
    (hb : r = true) :
    ∃ x e, step s = .next ((s.takeInputs.withRegsOf x).emitLevel l e s.compensatedDelay).advanceNow := by
  obtain ⟨x, hstep⟩ := h.step_running ho.1
  exact ⟨x, _, hstep.trans (endTick_emit (s := s.takeInputs.withRegsOf x) ho hl (h.evReady.trans hb))⟩

end

/-- A sink that never accepts: tick after tick the offer stands (44_scheduler.md R203). -/
theorem runEvents_busy {s : State} {l : Level} {n : Nat} (ho : s.Offering) (hl : s.levels[s.index.toNat]? = some l)
    (hu : s.Undisturbed false (n + 1)) :
    ∃ t x, runEvents n s = some (t, []) ∧ step t = .next ((t.takeInputs.withRegsOf x).offerLevel l).advanceNow ∧
      t.sched = .running ∧ t.index = s.index := by
  induction n generalizing s with
  | zero =>
    obtain ⟨x, hx⟩ := hu.step_offer ho hl rfl
    exact ⟨s, x, rfl, hx, ho.1, rfl⟩
  | succ n ih =>
    obtain ⟨x, hx⟩ := hu.step_offer ho hl rfl
    have ho' : ((s.takeInputs.withRegsOf x).offerLevel l).advanceNow.Offering := ⟨ho.1, .inl rfl⟩
    obtain ⟨t, y, hrun, hstep, hr, hi⟩ := ih ho' hl (hu.next hx)
    exact ⟨t, y, runEvents_head_iff.2 ⟨_, [], hx, hrun, rfl⟩, hstep, hr, hi⟩

/-! ### The events of a transmission in order (44_scheduler.md R182) -/

/-- `es` are the events so far of the transmission of `ls`: the first INDEX levels, in rising ticks before NOW; where it
is Done without a CANCEL, INDEX is TOTAL. -/
structure State.Delivered (s : State) (ls : List Level) (es : List Event) : Prop where
  levels : s.levels = ls
  total : s.total.toNat = ls.length
  count : es.length = s.index.toNat
  bound : es.length ≤ ls.length
  inOrder : ∀ k e, es[k]? = some e →
    ∃ l, ls[k]? = some l ∧ e.index = BitVec.ofNat 32 k ∧ e.level = l.level ∧ e.clk = l.clk
  rising : (es.map Event.now).Pairwise (· < ·)
  past : ∀ e ∈ es, e.now < s.now
  complete : s.sched = .done → s.cancelled = false → s.index = s.total

theorem State.begun_delivered {s : State} (hp : s.params.Legal) (hs : s.Startable) :
    s.begun.Delivered (s.planLevels s.mode) [] where
  levels := rfl
  total := planLevels_total hp hs s.mode
  count := rfl
  bound := Nat.zero_le _
  inOrder k e h := by simp at h
  rising := .nil
  past := nofun
  complete := nofun

theorem State.Accessed.delivered {s a : State} {ls : List Level} {es : List Event} (ha : s.Accessed a)
    (hs : ¬ s.Starts) (h : s.Delivered ls es) : a.Delivered ls es := by
  cases ha.tickEffect with
  | start hs' => exact absurd hs' hs
  | cancel => exact { h with complete := nofun }
  | other x => exact { h with }

theorem index_succ_toNat {i : Word} {n : Nat} (h : i.toNat < n) (hn : n < 2 ^ 32) : (i + 1).toNat = i.toNat + 1 := by
  rw [BitVec.toNat_add]
  exact Nat.mod_eq_of_lt (by simp; omega)

theorem State.Delivered.emit {s : State} {ls : List Level} {es : List Event} {l : Level} (h : s.Delivered ls es)
    (hr : s.sched = .running) (hl : ls[s.index.toNat]? = some l) (b : Bool) (d : Nat) :
    (s.emitLevel l b d).advanceNow.Delivered ls (es ++ [⟨s.index, l.level, l.clk, s.now⟩]) where
  levels := h.levels
  total := h.total
  count := by
    have hlt : s.index.toNat < ls.length := (List.getElem?_eq_some_iff.1 hl).1
    have hindex := index_succ_toNat hlt (h.total ▸ s.total.isLt)
    rw [List.length_append, h.count]
    exact hindex.symm
  bound := by
    have hlt : s.index.toNat < ls.length := (List.getElem?_eq_some_iff.1 hl).1
    rw [List.length_append, h.count]
    exact hlt
  inOrder k e hk := by
    rcases Nat.lt_or_ge k es.length with hlt | hge
    · rw [List.getElem?_append_left hlt] at hk
      exact h.inOrder k e hk
    · rw [List.getElem?_append_right hge, List.getElem?_singleton] at hk
      split at hk
      · obtain rfl := Option.some.inj hk
        obtain rfl : k = s.index.toNat := by have := h.count; omega
        exact ⟨l, hl, by simp, rfl, rfl⟩
      · cases hk
  rising := by
    rw [List.map_append, List.pairwise_append]
    refine ⟨h.rising, List.pairwise_singleton .., fun a ha b hb => ?_⟩
    obtain ⟨e, he, rfl⟩ := List.mem_map.1 ha
    obtain rfl := List.mem_singleton.1 hb
    exact h.past e he
  past e he := by
    rcases List.mem_append.1 he with he | he
    · exact Nat.lt_succ_of_lt (h.past e he)
    · obtain rfl := List.mem_singleton.1 he
      exact Nat.lt_succ_self _
  complete hd := by
    have hd : s.sched = .done := hd
    simp [hr] at hd

theorem State.Delivered.engine {k : SinkIn} {s t : State} {ls : List Level} {es : List Event} (h : s.Delivered ls es)
    (he : engineStep k s = .next t) : t.advanceNow.Delivered ls (es ++ t.event.toList) := by
  have hpast : ∀ e ∈ es, e.now < s.now + 1 := fun e hm => Nat.lt_succ_of_lt (h.past e hm)
  have hnone : es ++ (none : Option Event).toList = es := List.append_nil es
  rcases engineStep_cases he with
    ⟨-, rfl⟩ | ⟨-, rfl⟩ | ⟨⟨-, -, -, hi⟩, rfl⟩ | ⟨l, -, -, -, rfl⟩ | ⟨l, ho, hl, -, rfl⟩
  · exact hnone.symm ▸ { h with past := hpast }
  · exact hnone.symm ▸ { h with past := hpast }
  · exact hnone.symm ▸ { h with past := hpast, complete := fun _ _ => hi }
  · exact hnone.symm ▸ { h with past := hpast }
  · exact h.emit ho.1 (h.levels ▸ hl) _ _

theorem State.Delivered.step {s t : State} {ls : List Level} {es : List Event} (h : s.Delivered ls es)
    (hs : ¬ s.Restarts) (hstep : step s = .next t) : t.Delivered ls (es ++ t.event.toList) := by
  rw [State.Restarts, not_or, Bool.not_eq_true] at hs
  obtain ⟨hr, hs⟩ := hs
  have hs : ¬ s.Starts := fun ⟨i, hf, hp, hstartable⟩ => hs ⟨hstartable, i, hf, hp⟩
  obtain ⟨-, a, v, ha, he, rfl⟩ := step_next_ordinary hstep hr
  exact (ha.delivered hs h).engine he

/-- From an accepted START the events are the first levels, until a reset or the next START. -/
theorem runEvents_delivered {s t : State} {i : Instr} {n : Nat} {es : List Event} (hp : s.params.Legal)
    (hs : s.Startable) (hr : s.hostIn.rst = false) (hf : s.fetch = some i) (hi : i.performed = .start)
    (hquiet : ∀ m u fs, 0 < m → m < n + 1 → runEvents m s = some (u, fs) → ¬ u.Restarts)
    (hrun : runEvents (n + 1) s = some (t, es)) : t.Delivered (s.planLevels s.mode) es := by
  induction n generalizing t es with
  | zero =>
    obtain ⟨u, fs, hu, hstep, rfl⟩ := runEvents_last_iff.1 hrun
    cases hu
    have hord := (step_next_ordinary hstep hr).1
    rw [step_start hord hs hf hi] at hstep
    obtain ⟨v, he, rfl⟩ := endTick_next hstep
    exact (State.begun_delivered hp hs).engine he
  | succ n ih =>
    obtain ⟨u, fs, hu, hstep, rfl⟩ := runEvents_last_iff.1 hrun
    have hd := ih (fun m v gs hm hn => hquiet m v gs hm (Nat.lt_succ_of_lt hn)) hu
    exact hd.step (hquiet (n + 1) u fs (Nat.succ_pos n) (Nat.lt_succ_self _) hu) hstep

/-! ### The times of a transmission whose sink is always ready (44_scheduler.md R205) -/

/-- The state `j` ticks after the tick `t0 + k * p` of the emission of level k, before the next one is due. -/
structure State.OnTime (s : State) (ls : List Level) (p t0 k j : Nat) : Prop where
  running : s.sched = .running
  levels : s.levels = ls
  total : s.total.toNat = ls.length
  period : s.period.toNat = p
  index : s.index.toNat = k + 1
  inRange : k < ls.length
  notDue : j < p
  now : s.now = t0 + k * p + j + 1
  phase : s.phase = .wait
  haveLast : s.haveLast = true
  last : s.last = t0 + k * p
  due : s.due = t0 + k * p + p
  emission : j = 0 → ∀ l, ls[k]? = some l → s.event = some ⟨BitVec.ofNat 32 k, l.level, l.clk, t0 + k * p⟩
  noEvent : j ≠ 0 → s.event = none

/-- The state in which the engine emits level k on time: the delay it requests is P. -/
structure State.EmitsOnTime (s : State) (ls : List Level) (p t0 k : Nat) : Prop where
  running : s.sched = .running
  levels : s.levels = ls
  total : s.total.toNat = ls.length
  period : s.period.toNat = p
  periodPos : 1 ≤ p
  index : s.index.toNat = k
  now : s.now = t0 + k * p
  delay : s.compensatedDelay = p

theorem State.EmitsOnTime.emit {s : State} {ls : List Level} {p t0 k : Nat} {l : Level} (h : s.EmitsOnTime ls p t0 k)
    (hl : ls[k]? = some l) (b : Bool) :
    (s.emitLevel l b s.compensatedDelay).advanceNow.OnTime ls p t0 k 0 where
  running := h.running
  levels := h.levels
  total := h.total
  period := h.period
  index := by
    have hlt : s.index.toNat < ls.length := h.index ▸ (List.getElem?_eq_some_iff.1 hl).1
    exact (index_succ_toNat hlt (h.total ▸ s.total.isLt)).trans (congrArg (· + 1) h.index)
  inRange := (List.getElem?_eq_some_iff.1 hl).1
  notDue := h.periodPos
  now := congrArg (· + 1) h.now
  phase := rfl
  haveLast := rfl
  last := h.now
  due := by
    rw [State.advanceNow_due, State.emitLevel_due, h.delay, max_eq_left h.periodPos, h.now]
  emission _ l' hl' := by
    obtain rfl : l = l' := Option.some.inj (hl.symm.trans hl')
    have hindex : s.index = BitVec.ofNat 32 k := by rw [← h.index, BitVec.ofNat_toNat, BitVec.setWidth_eq]
    rw [State.advanceNow_event, State.emitLevel_event, hindex, h.now]
  noEvent hj := absurd rfl hj

theorem State.begun_emitsOnTime {s : State} (hp : s.params.Legal) (hs : s.Startable) :
    s.begun.EmitsOnTime (s.planLevels s.mode) s.nominalPeriod s.now 0 where
  running := rfl
  levels := rfl
  total := planLevels_total hp hs s.mode
  period := State.begun_period hp
  periodPos := nominalPeriod_pos hs
  index := rfl
  now := by rw [Nat.zero_mul]; rfl
  delay := State.begun_compensatedDelay hp

section
variable {s : State} {ls : List Level} {p t0 k j n : Nat} (h : s.OnTime ls p t0 k j) (hu : s.Undisturbed true (n + 1))
include h

/-- On the tick where the next level is due, the measured gap is P and so is the delay (44_scheduler.md R194). -/
theorem State.OnTime.emitsOnTime (hroom : s.now < 2 ^ 64) (hj : j + 1 = p) :
    s.EmitsOnTime ls p t0 (k + 1) := by
  have hnow := h.now
  have hlast := h.last
  have hperiod := h.period
  refine ⟨h.running, h.levels, h.total, h.period, by omega, h.index, ?_, ?_⟩
  · rw [Nat.succ_mul]; omega
  · rw [State.compensatedDelay_later h.haveLast, State.measuredGap_of_le (by omega) hroom]
    omega

include hu

theorem State.OnTime.step_wait (hj : j + 1 < p) : ∃ t, step s = .next t ∧ t.OnTime ls p t0 k (j + 1) := by
  have hnow := h.now
  have hdue := h.due
  obtain ⟨x, hstep⟩ := hu.step_waiting ⟨h.running, h.phase, by omega⟩
  exact ⟨_, hstep, { h with
    notDue := hj, now := congrArg (· + 1) hnow, emission := nofun, noEvent := fun _ => rfl }⟩

theorem State.OnTime.step_emit (hj : j + 1 = p) (hk : k + 1 < ls.length) :
    ∃ t, step s = .next t ∧ t.OnTime ls p t0 (k + 1) 0 := by
  have hnow := h.now
  have hdue := h.due
  have hroom := hu.room
  have hindex : s.index ≠ s.total := fun he => by
    have := congrArg BitVec.toNat he
    rw [h.index, h.total] at this
    omega
  have hl : ls[k + 1]? = some ls[k + 1] := List.getElem?_eq_getElem hk
  have hlevel : s.levels[s.index.toNat]? = some ls[k + 1] := by rw [h.levels, h.index, hl]
  obtain ⟨x, e, hstep⟩ := hu.step_emit ⟨h.running, .inr ⟨h.phase, by omega, hindex⟩⟩ hlevel rfl
  have hemits : (s.takeInputs.withRegsOf x).EmitsOnTime ls p t0 (k + 1) :=
    { h.emitsOnTime (by omega) hj with }
  exact ⟨_, hstep, hemits.emit hl e⟩

theorem State.OnTime.step_done (hj : j + 1 = p) (hk : k + 1 = ls.length) :
    ∃ t, step s = .next t ∧ t.sched = .done ∧ t.index.toNat = ls.length ∧ t.event = none ∧ t.now = s.now + 1 := by
  have hnow := h.now
  have hdue := h.due
  have hindex : s.index = s.total := BitVec.eq_of_toNat_eq (by rw [h.index, h.total, hk])
  obtain ⟨x, hstep⟩ := hu.step_completing ⟨h.running, h.phase, by omega, hindex⟩
  exact ⟨_, hstep, rfl, h.index.trans hk, rfl, rfl⟩

end

/-- The tick m of a run that emits its first level in tick 0 lies in the period of level m / P. -/
theorem runEvents_onTime {s u : State} {ls : List Level} {p t0 : Nat} (hstep : step s = .next u)
    (h : u.OnTime ls p t0 0 0) (hu : u.Undisturbed true (ls.length * p)) {m : Nat} (hm : m < ls.length * p) :
    ∃ t es v k j, runEvents m s = some (t, es) ∧ step t = .next v ∧ m = k * p + j ∧ v.OnTime ls p t0 k j ∧
      v.Undisturbed true (ls.length * p - m) := by
  induction m with
  | zero => exact ⟨s, [], u, 0, 0, rfl, hstep, by omega, h, hu⟩
  | succ m ih =>
    obtain ⟨t, es, v, k, j, hrun, hv, hkj, htime, hrest⟩ := ih (by omega)
    rw [show ls.length * p - m = (ls.length * p - (m + 1)) + 1 by omega] at hrest
    have hrun' : runEvents (m + 1) s = some (v, es ++ v.event.toList) := runEvents_last_iff.2 ⟨t, es, hrun, hv, rfl⟩
    have hsucc : (k + 1) * p = k * p + p := Nat.succ_mul ..
    have hlt := htime.notDue
    by_cases hj : j + 1 < p
    · obtain ⟨w, hw, htime'⟩ := htime.step_wait hrest hj
      exact ⟨v, _, w, k, j + 1, hrun', hw, by omega, htime', hrest.next hw⟩
    · have hk : k + 1 < ls.length := Nat.lt_of_mul_lt_mul_right (a := p) (by omega)
      obtain ⟨w, hw, htime'⟩ := htime.step_emit hrest (by omega) hk
      exact ⟨v, _, w, k + 1, 0, hrun', hw, by omega, htime', hrest.next hw⟩

/-- The tick after the last level's period is the one that completes the transmission. -/
theorem runEvents_onTime_done {s u : State} {ls : List Level} {p t0 : Nat} (hstep : step s = .next u)
    (h : u.OnTime ls p t0 0 0) (hu : u.Undisturbed true (ls.length * p)) :
    ∃ t es v, runEvents (ls.length * p) s = some (t, es) ∧ step t = .next v ∧ v.sched = .done ∧
      v.index.toNat = ls.length ∧ v.event = none ∧ v.now = t0 + ls.length * p + 1 := by
  obtain ⟨m, hm⟩ := Nat.exists_eq_add_one.2 (Nat.mul_pos h.inRange h.notDue)
  obtain ⟨t, es, v, k, j, hrun, hv, hkj, htime, hrest⟩ := runEvents_onTime hstep h hu (m := m) (by omega)
  rw [show ls.length * p - m = 0 + 1 by omega] at hrest
  have hsucc : (k + 1) * p = k * p + p := Nat.succ_mul ..
  have hle : (k + 1) * p ≤ ls.length * p := Nat.mul_le_mul_right p htime.inRange
  have hlt := htime.notDue
  have hnow := htime.now
  have hk : k + 1 = ls.length := Nat.eq_of_mul_eq_mul_right h.notDue (by omega)
  obtain ⟨w, hw, hdone, hindex, hevent, hnow'⟩ := htime.step_done hrest (by omega) hk
  exact ⟨v, _, w, hm ▸ runEvents_last_iff.2 ⟨t, es, hrun, hv, rfl⟩, hw, hdone, hindex, hevent, by omega⟩

theorem mul_add_inj {p k k' j j' : Nat} (hj : j < p) (hj' : j' < p) (h : k * p + j = k' * p + j') :
    k = k' ∧ j = j' := by
  have hdiv : ∀ {k j : Nat}, j < p → (k * p + j) / p = k := fun hj => by
    rw [Nat.mul_comm, Nat.mul_add_div (by omega), Nat.div_eq_of_lt hj, Nat.add_zero]
  obtain rfl : k = k' := (hdiv hj).symm.trans (h ▸ hdiv hj')
  exact ⟨rfl, by omega⟩

theorem status_state_of_done {s : State} (h : s.sched = .done) : (regRead s addrStatus).extractLsb' 0 2 = 2 := by
  rw [regRead, if_pos rfl, statusWord, BitVec.extractLsb'_append_eq_right, h]
  rfl

end Sys2Proof.Machine

/-! SUPPORT. The obligations on whole transmissions (44_scheduler.md sections 1, 5 and 6). -/

namespace Sys2Proof.Machine

/-- Settles O57: each tick lies in the period of one level, the emission in its first tick, and the period of the last
level ends with the completion. -/
theorem zeroLatencyTiming : Obligations.ZeroLatencyTiming := by
  intro s i hp hs hr hf hi n p hroom hhost hsink m hm
  have hpos : 1 ≤ p := nominalPeriod_pos hs
  have hord : s.Ordinary := ⟨hr, by omega⟩
  obtain ⟨l, hl⟩ := State.exists_firstLevel hp hs
  obtain ⟨e, he⟩ := hsink 0 (Nat.succ_pos _)
  have hstart := (step_start hord hs hf hi).trans
    (endTick_emit s.begun_offering hl (congrArg SinkIn.evReady (State.sinkIn_of_getElem? he)))
  have hfirst := (State.begun_emitsOnTime hp hs).emit hl s.sinkIn.sinkErr
  have hcalm := State.undisturbed_of_step hr hstart hhost hsink hroom
  rcases Nat.lt_or_eq_of_le hm with hlt | rfl
  · obtain ⟨t, es, u, k, j, hrun, hu, hkj, htime, -⟩ := runEvents_onTime hstart hfirst hcalm hlt
    have hkj : m = k * p + j := hkj
    have hnow : u.now = s.now + k * p + j + 1 := htime.now
    refine ⟨t, es, u, hrun, hu, by omega, fun _ => htime.running, fun he => absurd he (Nat.ne_of_lt hlt), ?_, ?_⟩
    · intro k' l' hk' hl'
      obtain ⟨rfl, rfl⟩ := mul_add_inj htime.notDue hpos (hkj.symm.trans hk')
      exact ⟨htime.emission rfl l' hl', htime.due⟩
    · intro hnone
      exact htime.noEvent fun hj => hnone ⟨k, htime.inRange, by omega⟩
  · obtain ⟨t, es, u, hrun, hu, hdone, hindex, hevent, hnow⟩ := runEvents_onTime_done hstart hfirst hcalm
    refine ⟨t, es, u, hrun, hu, hnow, fun hlt => absurd hlt (Nat.lt_irrefl _),
      fun _ => ⟨hdone, hindex, status_state_of_done hdone⟩, fun k l' hk hl' => ?_, fun _ => hevent⟩
    have hlt : k < n := (List.getElem?_eq_some_iff.1 hl').1
    exact absurd (Nat.eq_of_mul_eq_mul_right hpos hk) (Nat.ne_of_gt hlt)

/-- Settles O58: the events are the first INDEX levels after every tick. -/
theorem emissionOrderIsTheLevelOrder : Obligations.EmissionOrderIsTheLevelOrder := by
  intro s t i n es hp hs hr hf hi hquiet hrun
  cases n with
  | zero =>
    cases hrun
    exact ⟨Nat.zero_le _, nofun, .nil, nofun, nofun⟩
  | succ n =>
    have hd := runEvents_delivered hp hs hr hf hi hquiet hrun
    refine ⟨hd.bound, hd.inOrder, hd.rising, fun _ => hd.count, fun _ hdone hc => ?_⟩
    rw [hd.count, hd.complete hdone hc, hd.total]

/-- Settles O59: each tick of a busy sink leaves the offer standing for the next. -/
theorem busySinkHangsTheTransmission : Obligations.BusySinkHangsTheTransmission := by
  intro s l n ho hl hhost hsink hroom
  obtain ⟨t, x, hrun, hstep, hr, hi⟩ := runEvents_busy ho hl ⟨hhost, hsink, hroom⟩
  exact ⟨t, _, [], hrun, hstep, rfl, hr, hi, rfl, rfl, rfl, rfl⟩

end Sys2Proof.Machine

/-! SUPPORT. ERR against what an access and the engine step do: no meaning reads it, and every write of CMD or of a RW
register ends by setting it (60_exceptions.md R221). -/

namespace Sys2Proof.Machine

theorem engineStep_err {k : SinkIn} {s t : State} (h : engineStep k s = .next t) : t.err = s.err := by
  rcases engineStep_cases h with ⟨-, rfl⟩ | ⟨-, rfl⟩ | ⟨-, rfl⟩ | ⟨_, -, -, -, rfl⟩ | ⟨_, -, -, -, rfl⟩ <;> rfl

/-! ### The shared operations, START and CANCEL from a state with another ERR -/

section
variable (s : State) (e : ErrCode)

theorem State.setErr_setErr (e' : ErrCode) : (s.setErr e).setErr e' = s.setErr e' := rfl

theorem startCheck_setErr : startCheck (s.setErr e) = startCheck s := rfl

theorem reject_setErr (c : ErrCode) : reject c (s.setErr e) = reject c s := by
  rw [reject_eq, reject_eq, State.setErr_setErr]

theorem lockedWrite_setErr {w : State → State} (hw : w (s.setErr e) = (w s).setErr e) :
    lockedWrite w (s.setErr e) = lockedWrite w s := by
  by_cases hr : s.sched = .running
  · rw [lockedWrite_running hr, lockedWrite_running (s := s.setErr e) hr, State.setErr_setErr]
  · rw [lockedWrite_free hr, lockedWrite_free (s := s.setErr e) hr, hw, State.setErr_setErr]

theorem blockCommand_setErr (r : Byte → Bool → Word) (blk : Byte) (xp : Bool) :
    blockCommand r blk xp (s.setErr e) = blockCommand r blk xp s := by
  cases hb : badBlock blk xp with
  | true => rw [blockCommand_bad hb, blockCommand_bad hb, State.setErr_setErr]
  | false => rw [blockCommand_good hb, blockCommand_good hb]; rfl

theorem exec_start_setErr : exec .start (s.setErr e) = exec .start s := by
  rw [exec_start, exec_start, execStart, execStart, startCheck_setErr]
  cases startCheck s with
  | rejected c => exact reject_setErr s e c
  | accepted m => rfl

theorem exec_cancel_setErr : exec .cancel (s.setErr e) = exec .cancel s := by
  by_cases hr : s.sched = .running
  · rw [exec_cancel_running hr, exec_cancel_running (s := s.setErr e) hr]; rfl
  · rw [exec_cancel_notRunning hr, exec_cancel_notRunning (s := s.setErr e) hr, State.setErr_setErr]

/-! ### Every access from a state with another ERR -/

theorem exec_command_setErr (r : CmdRow) (w : Word) : exec (r.instr w) (s.setErr e) = exec (r.instr w) s := by
  cases r with
  | nop => rfl
  | start => exact exec_start_setErr s e
  | cancel => exact exec_cancel_setErr s e
  | henc => rfl
  | hdec => exact blockCommand_setErr s e ..
  | hchk => exact blockCommand_setErr s e ..

theorem exec_wrCmd_setErr (w : Word) : exec (.wrCmd w) (s.setErr e) = exec (.wrCmd w) s := by
  cases hw : decodeCommand w with
  | none => rw [exec_wrCmd_invalid hw, exec_wrCmd_invalid hw, reject_setErr]
  | some j =>
    obtain ⟨r, -, rfl⟩ := decodeCommand_eq_some.1 hw
    rw [exec_wrCmd_of_decode hw, exec_wrCmd_of_decode hw, exec_command_setErr]

/-- A well-formed access that is neither a read nor an ignored write answers the same whatever ERR held before it: the
whole next state, not its ERR alone. -/
theorem exec_setErr {i : Instr} (hwf : i.wellFormed s.params.nBuf = true) (hrd : ∀ a, i ≠ .rd a)
    (hig : ∀ a v, i ≠ .wrIgnored a v) : exec i (s.setErr e) = exec i s := by
  cases i with
  | nop => rfl
  | start => exact exec_start_setErr s e
  | cancel => exact exec_cancel_setErr s e
  | henc nib xp => rfl
  | hdec blk xp => exact blockCommand_setErr s e ..
  | hchk blk xp => exact blockCommand_setErr s e ..
  | rd a => exact absurd rfl (hrd a)
  | wrCmd w => exact exec_wrCmd_setErr s e w
  | wrConfig v => rw [exec_wrConfig, exec_wrConfig]; exact lockedWrite_setErr s e rfl
  | wrBps v => rw [exec_wrBps, exec_wrBps]; exact lockedWrite_setErr s e rfl
  | wrLen v => rw [exec_wrLen, exec_wrLen]; exact lockedWrite_setErr s e rfl
  | wrPayload k v =>
    have hk : k.toNat < s.params.nBuf := of_decide_eq_true hwf
    rw [exec_wrPayload v hk, exec_wrPayload (s := s.setErr e) v hk]
    exact lockedWrite_setErr s e rfl
  | wrIgnored a v => exact absurd rfl (hig a v)

end

end Sys2Proof.Machine

/-! SUPPORT. The obligation on ERR (60_exceptions.md section 1). -/

namespace Sys2Proof.Machine

/-- Settles O31: a read, an ignored write and an engine step keep ERR, and any other access answers one next state
whatever ERR held. -/
theorem errIsTheOutcomeOfTheLastWrite : Obligations.ErrIsTheOutcomeOfTheLastWrite := by
  refine ⟨fun s t a h => ?_, fun s t a v h => ?_, fun _ _ _ => engineStep_err, fun i s t e hwf hrd hig h => ?_⟩
  · cases h; rfl
  · cases h; rfl
  · exact ⟨t, (exec_setErr s e hwf hrd hig).trans h, rfl⟩

end Sys2Proof.Machine

/-! SUPPORT. What a tick fetches, by `hsel` (20_memory.md R51). -/

namespace Sys2Proof.Machine

theorem State.fetch_selected {s : State} (h : s.hostIn.hsel = true) : s.fetch =
    some (decodeBus s.params.nBuf (busCode s.hostIn.hwrite s.hostIn.haddr) s.hostIn.hwdata) :=
  if_pos h

theorem State.fetch_unselected {s : State} (h : s.hostIn.hsel = false) : s.fetch = none :=
  if_neg (Bool.eq_false_iff.1 h)

end Sys2Proof.Machine

/-! SUPPORT. The obligations on reset and the order of a tick (70_reset_and_hazards.md). -/

namespace Sys2Proof.Machine

/-- Settles O2: the next state is the reset of the state whose inputs were taken, and neither of the two writes PAYLOAD
or the parameters. -/
theorem resetTickOverridesTheTick : Obligations.ResetTickOverridesTheTick :=
  fun s hr => ⟨_, step_reset hr, s.takeInputs.hardReset_atReset, rfl, rfl, rfl, rfl, rfl, rfl⟩

/-- Settles O3: the statement's state is `takeInputs` and its `rest` is `endTick` with the tick's sink inputs, both
written out; every access completes. -/
theorem stepRunsTheDecodedAccess : Obligations.StepRunsTheDecodedAccess := by
  intro s hord s0 rest
  have hrest (t : State) : rest t = endTick s.sinkIn t := rfl
  refine ⟨fun i hsel hi => ?_, fun hsel => ?_⟩
  · obtain ⟨t, ht⟩ := exec_completes i s0
    have hf : s.fetch = some i := (State.fetch_selected hsel).trans (congrArg some hi)
    exact ⟨t, ht, (step_access hord hf ht).trans (hrest t).symm⟩
  · exact (step_noAccess hord (State.fetch_unselected hsel)).trans (hrest s0).symm

end Sys2Proof.Machine
